-- ==== Sys2Proof/Word.lean ====
section
/-! DEFINITION. The words of the machine: bytes, command words, line levels, and what an instruction is fetched from. -/

namespace Sys2Proof

/-- A byte: `d` of a command word, the shift register, a byte on the line (30_encoding.md R90, 10_state.md R23). -/
abbrev Byte := BitVec 8

/-- The host's command word (30_encoding.md R90). -/
abbrev CmdWord := BitVec 12

/-- The level of the one-wire line in one tick (00_scope.md R14): `H` is 1, `L` is 0. -/
inductive Level where
  | H
  | L
deriving DecidableEq, Repr, Inhabited

/-- Where an instruction's bits come from: the 12-bit command port (30_encoding.md R90), or a byte of the
hardwired RTEMP program (20_memory.md R76, 30_encoding.md R100). -/
inductive FetchWord where
  | cmd (w : CmdWord)
  | wire (b : Byte)
deriving DecidableEq, Repr, Inhabited

end Sys2Proof
end

