-- ==== Sys2Proof/Config.lean ====
section
/-! DEFINITION. The parameter record of the machine, its defaults, the inputs of a tick, and the free inputs. -/

namespace Sys2Proof

/-- The configuration record of 00_scope.md R8. All fields are ticks except `tickw`, the width of `k` in bits. -/
structure Cfg where
  tRstl : Nat   -- T_RSTL
  tPds  : Nat   -- T_PDS
  tRsth : Nat   -- T_RSTH
  tW1l  : Nat   -- T_W1L
  tSlot : Nat   -- T_SLOT
  tRec  : Nat   -- T_REC
  tRdl  : Nat   -- T_RDL
  tRds  : Nat   -- T_RDS
  tConv : Nat   -- T_CONV
  tickw : Nat   -- TICKW
deriving DecidableEq, Repr

/-- The "default" column of 00_scope.md R8. -/
def Cfg.default : Cfg :=
  { tRstl := 480, tPds := 70, tRsth := 480, tW1l := 6, tSlot := 60, tRec := 10, tRdl := 2, tRds := 10,
    tConv := 750000, tickw := 20 }

/-- The inputs of one tick: the ports of 10_state.md R33, with the slave's decision `devLow` (20_memory.md R62)
in place of `ow_in`, which 20_memory.md R61 computes from it. -/
structure TickIn where
  rst      : Bool
  cmdValid : Bool
  cmdWord  : CmdWord
  devLow   : Bool
deriving DecidableEq, Repr, Inhabited

/-- FREE VALUE (20_memory.md R62: "The model draws it freely"; log 2). What the host and the slave present in
tick number `n` once the inputs listed in the state are used up. No body: no claim can rest on its value. -/
opaque Config.freeInput : Nat → TickIn

end Sys2Proof
end

