-- ==== Sys2Proof/Syntax.lean ====
section
/-! DEFINITION. The instructions: one constructor per row of spec/opcode_table.json. -/

namespace Sys2Proof

/-- The rows of spec/opcode_table.json. -/
inductive Instr where
  /-- RESET, `op` 0x1 (40_reset_presence.md R122). -/
  | reset
  /-- WBIT b, `op` 0x2, `b = d[0]` (41_bit_slots.md R141). -/
  | wbit (b : BitVec 1)
  /-- RBIT, `op` 0x3 (41_bit_slots.md R146). -/
  | rbit
  /-- WBYTE v, `op` 0x4, `v = d[7:0]` (42_byte_serialization.md R160). -/
  | wbyte (v : Byte)
  /-- RBYTE, `op` 0x5 (42_byte_serialization.md R163). -/
  | rbyte
  /-- RTEMP, `op` 0x6 (43_thermal_sequencer.md R181). -/
  | rtemp
  /-- SKIP_ROM, the name of WBYTE 0xCC (30_encoding.md R103). -/
  | skipRom
  /-- CONVERT_T, the name of WBYTE 0x44 (30_encoding.md R103). -/
  | convertT
  /-- READ_SCRATCHPAD, the name of WBYTE 0xBE (30_encoding.md R103). -/
  | readScratchpad
  /-- The wire byte 0xCC that OWT sends inside RTEMP (43_thermal_sequencer.md R192). -/
  | wireSkipRom
  /-- The wire byte 0x44 that OWT sends inside RTEMP (43_thermal_sequencer.md R193). -/
  | wireConvertT
  /-- The wire byte 0xBE that OWT sends inside RTEMP (43_thermal_sequencer.md R194). -/
  | wireReadScratchpad
  /-- A word with the illegal `op` 0x0 (30_encoding.md R94). -/
  | illegal0
  /-- A word with the illegal `op` 0x7 (30_encoding.md R94). -/
  | illegal7
  /-- A word with an illegal `op` from 0x8 to 0xF (30_encoding.md R94). -/
  | illegal8F (op : BitVec 4)
deriving DecidableEq, Repr

end Sys2Proof
end

