-- ==== Sys2Proof/Machine/State.lean ====
section
/-! DEFINITION. The state of the machine, its reset value, and the reasons a step can stop. -/

namespace Sys2Proof.Machine

/-- Field `run` of 10_state.md R22. -/
inductive Run where
  | idle
  | busy
deriving DecidableEq, Repr

/-- Field `cmd` of 10_state.md R22: C_NONE to C_RTEMP. -/
inductive Cmd where
  | none
  | reset
  | wbit
  | rbit
  | wbyte
  | rbyte
  | rtemp
deriving DecidableEq, Repr

/-- Field `stage` of 10_state.md R22: ST_NONE, ST_RST1, ST_SKIP1, ST_CONV, ST_WAIT, ST_RST2, ST_SKIP2, ST_RDSP,
ST_LSB, ST_MSB. -/
inductive Stage where
  | none
  | rst1
  | skip1
  | conv
  | wait
  | rst2
  | skip2
  | rdsp
  | lsb
  | msb
deriving DecidableEq, Repr

/-- Field `prim` of 10_state.md R22: P_NONE, P_RESET, P_WSLOT, P_RSLOT, P_WAIT. -/
inductive Prim where
  | none
  | reset
  | wslot
  | rslot
  | wait
deriving DecidableEq, Repr

/-- The record `S` of 10_state.md R21: the control state (R22), the data registers (R23) and the flags (R25). -/
structure Owt where
  run       : Run
  cmd       : Cmd
  stage     : Stage
  prim      : Prim
  k         : Nat          -- TICKW bits: below 2^TICKW (log 8)
  bitidx    : BitVec 3
  sr        : Byte
  lsbTmp    : Byte
  rdata     : Byte
  tempRaw   : BitVec 16
  done      : Bool
  presence  : Bool
  errNp     : Bool
  errIll    : Bool
  tempValid : Bool
deriving DecidableEq, Repr

/-- `RESET_STATE` (10_state.md R38). -/
def Owt.reset : Owt :=
  { run := .idle, cmd := .none, stage := .none, prim := .none, k := 0, bitidx := 0, sr := 0x00, lsbTmp := 0x00,
    rdata := 0x00, tempRaw := 0x0000, done := false, presence := false, errNp := false, errIll := false,
    tempValid := false }

/-- The machine: `owt` is all of the spec's state (10_state.md R21). The other fields are the model's own: the
configuration the machine is run with (00_scope.md R8; no step changes it, log 1), the inputs of the coming ticks,
oldest first (log 2), and the number of ticks stepped so far (log 3). -/
structure State where
  owt    : Owt
  cfg    : Cfg
  inputs : List TickIn
  tick   : Nat
deriving DecidableEq, Repr

/-- After reset: 10_state.md R38, under the default configuration of 00_scope.md R8, with no input listed. -/
def State.reset : State :=
  { owt := Owt.reset, cfg := Cfg.default, inputs := [], tick := 0 }

/-- Reasons a step stops with a fault. All are raised only in control states that no run from `RESET_STATE`
reaches (10_state.md R40), where the spec's lists of cases have no arm; all are safe (log 7). -/
inductive Fault where
  /-- A Busy tick with `prim` P_NONE, which has no row in 10_state.md R24. Raised by `busyTick`. Safe. -/
  | noPrimitive
  /-- The end of a primitive with `cmd` C_NONE, for which 10_state.md R30 has no arm. Raised by `endPrim`. Safe. -/
  | noCommand
  /-- The end of a primitive of RTEMP with `stage` ST_NONE, for which 43_thermal_sequencer.md R191 has no arm.
  Raised by `rtempPrimEnd`. Safe. -/
  | noStage
  /-- A wire byte run outside the stage after which 43_thermal_sequencer.md R191 sends it: OWT sends the three
  bytes "only inside RTEMP" (30_encoding.md R100). Raised by the three wire meanings. Safe. -/
  | wireByteOffSequence
deriving DecidableEq, Repr

/-- Reasons a step is refused. -/
inductive Refusal where
  /-- An instruction that has no meaning yet, by its mnemonic. Raised by `exec` only; no arm raises it now. Safe. -/
  | notModelled (mnemonic : String)
  /-- "the model refuses a configuration that is not well formed" (00_scope.md R9). Raised by `planTick`. Safe. -/
  | cfgNotWellFormed
  /-- A wire byte that is none of the three of 30_encoding.md R100. Raised by `step`, which never fetches one. Safe. -/
  | notAWireByte
deriving DecidableEq, Repr

end Sys2Proof.Machine
end

