-- ==== Sys2Proof/Machine/Flags.lean ====
section
/-! DEFINITION. The five flags: every computation of 10_state.md R25, and their packing into `status`. -/

namespace Sys2Proof.Machine

/-- What the accept of a legal word does to the flags: `done`, `err_np` and `err_ill` become 0 (10_state.md R28). -/
def clearFlags (o : Owt) : Owt := { o with done := false, errNp := false, errIll := false }

/-- `presence <- (level == L)` (40_reset_presence.md R121). -/
def presenceOf (level : Level) : Bool := decide (level = .L)

/-- `err_np <- (presence == 0)` (40_reset_presence.md R123). -/
def setErrNp (o : Owt) : Owt := { o with errNp := !o.presence }

/-- `presence <- 0` at the accept of RESET and RTEMP (10_state.md R25, R28). -/
def clearPresence (o : Owt) : Owt := { o with presence := false }

/-- `temp_valid <- 0` at the accept of RTEMP (10_state.md R25, R28). -/
def clearTempValid (o : Owt) : Owt := { o with tempValid := false }

/-- Bit 0 of `status` (10_state.md R26). -/
def busyBit (o : Owt) : Bool := decide (o.run = .busy)

/-- `status[7:0]`: bit 0 busy, 1 done, 2 presence, 3 err_np, 4 err_ill, 5 temp_valid, 7:6 zero (10_state.md R26). -/
def statusByte (o : Owt) : Byte :=
  (0#2 ++ BitVec.ofBool o.tempValid ++ BitVec.ofBool o.errIll ++ BitVec.ofBool o.errNp
    ++ BitVec.ofBool o.presence ++ BitVec.ofBool o.done ++ BitVec.ofBool (busyBit o) : BitVec (2 + 1 + 1 + 1 + 1 + 1 + 1))

end Sys2Proof.Machine
end

