-- ==== Sys2Proof/Machine/Operands.lean ====
section
/-! DEFINITION. Operand and register forms: extension, the two shifts of `sr`, the composition of the reading. -/

namespace Sys2Proof.Machine

/-- `zext_8` of one bit (44_common_laws.md R270, 00_scope.md R13). -/
def zext8 (b : BitVec 1) : Byte := b.setWidth 8

/-- The bit a read level stands for: H is 1, L is 0 (00_scope.md R14, 41_bit_slots.md R145). -/
def levelBit : Level → BitVec 1
  | .H => 1
  | .L => 0

/-- `{b, sr[7:1]}`: shift right by one with `b` in at bit 7 (41_bit_slots.md R145). -/
def shiftIn (b : BitVec 1) (sr : Byte) : Byte := (b ++ sr.extractLsb' 1 7 : BitVec (1 + 7))

/-- `{0, sr[7:1]}`: the shift at the end of a write slot (41_bit_slots.md R140). -/
def shiftOut (sr : Byte) : Byte := shiftIn 0 sr

/-- `sr[0]`, the bit a write slot sends (10_state.md R23, 41_bit_slots.md R140). -/
def sendBit (sr : Byte) : Bool := sr.getLsbD 0

/-- `sr[7]`, the bit just sampled (41_bit_slots.md R147). -/
def topBit (sr : Byte) : BitVec 1 := sr.extractLsb' 7 1

/-- `{msb, lsb}`, the 16-bit reading (20_memory.md R66, 43_thermal_sequencer.md R190). -/
def composeReading (msb lsb : Byte) : BitVec 16 := (msb ++ lsb : BitVec (8 + 8))

/-- The reading in sixteenths of a degree Celsius: `toInt(temp_raw)` (43_thermal_sequencer.md R195, 00_scope.md R13). -/
def readingSixteenths (raw : BitVec 16) : Int := raw.toInt

/-- The temperature in degrees Celsius, the exact rational `toInt(temp_raw) / 16` (43_thermal_sequencer.md R195,
44_common_laws.md R271). -/
def readingCelsius (raw : BitVec 16) : ℚ := (readingSixteenths raw : ℚ) / 16

end Sys2Proof.Machine
end

