-- ==== Sys2Proof/Machine/Waveform.lean ====
section
/-! DEFINITION. The primitives as waveforms, the well-formed configurations, the line, the output ports, and the
frames and expansions of 30_encoding.md. -/

namespace Sys2Proof.Machine

/-! ## Lengths (00_scope.md R9) and well-formed configurations (R8) -/

/-- `L_RESET` (00_scope.md R9). -/
def lReset (c : Cfg) : Nat := c.tRstl + c.tRsth

/-- `L_WSLOT` (00_scope.md R9). -/
def lWslot (c : Cfg) : Nat := c.tSlot + c.tRec

/-- `L_RSLOT` (00_scope.md R9). -/
def lRslot (c : Cfg) : Nat := c.tSlot

/-- `L_WAIT` (00_scope.md R9). -/
def lWait (c : Cfg) : Nat := c.tConv

/-- Every bound of 00_scope.md R8 holds. -/
abbrev CfgWf (c : Cfg) : Prop :=
  480 ≤ c.tRstl ∧ (60 ≤ c.tPds ∧ c.tPds ≤ 239) ∧ c.tPds < c.tRsth ∧ (1 ≤ c.tW1l ∧ c.tW1l ≤ 14)
  ∧ (c.tW1l < c.tSlot ∧ c.tRdl + c.tRds < c.tSlot) ∧ 1 ≤ c.tRec ∧ (1 ≤ c.tRdl ∧ c.tRdl ≤ 2)
  ∧ (1 ≤ c.tRds ∧ c.tRds ≤ 14 ∧ c.tRdl + c.tRds ≤ 15) ∧ 750000 ≤ c.tConv
  ∧ (lReset c ≤ 2 ^ c.tickw ∧ lWslot c ≤ 2 ^ c.tickw ∧ lRslot c ≤ 2 ^ c.tickw ∧ lWait c ≤ 2 ^ c.tickw)

/-! ## The table of primitives (10_state.md R24) -/

/-- Column `len` of 10_state.md R24. P_NONE has no row: 0 here, and a Busy tick with it faults (log 7). -/
def primLen (c : Cfg) : Prim → Nat
  | .none => 0
  | .reset => lReset c
  | .wslot => lWslot c
  | .rslot => lRslot c
  | .wait => lWait c

/-- Column `lowlen` of 10_state.md R24, evaluated on the current `sr` (R35). -/
def primLowlen (c : Cfg) (p : Prim) (sr : Byte) : Nat :=
  match p with
  | .none => 0
  | .reset => c.tRstl
  | .wslot => if sendBit sr then c.tW1l else c.tSlot
  | .rslot => c.tRdl
  | .wait => 0

/-- Column `sample` of 10_state.md R24; `none` where the primitive does not sample. -/
def primSample (c : Cfg) : Prim → Option Nat
  | .none => none
  | .reset => some (c.tRstl + c.tPds)
  | .wslot => none
  | .rslot => some (c.tRdl + c.tRds)
  | .wait => none

/-- The next value of `k` inside a primitive, in TICKW bits (10_state.md R32, 44_common_laws.md R270). -/
def nextK (c : Cfg) (k : Nat) : Nat := (k + 1) % 2 ^ c.tickw

/-! ## The line and the output ports (10_state.md R34, R35; 20_memory.md R61, R63) -/

/-- `ow_oe`: OWT drives the line low in this tick (10_state.md R35). -/
def owOe (c : Cfg) (o : Owt) : Bool := decide (o.run = .busy) && decide (o.k < primLowlen c o.prim o.sr)

/-- `ow_out`, constant 0 (10_state.md R34). -/
def owOut : Bool := false

/-- The line level of a tick (20_memory.md R61). -/
def lineLevel (oe devLow : Bool) : Level := if oe then .L else if devLow then .L else .H

/-- The two pin modes OWT uses (20_memory.md R63). -/
inductive PinMode where
  | drivenLow
  | floatingInput
deriving DecidableEq, Repr

/-- The pin mode of a tick (20_memory.md R63). -/
def pinMode (c : Cfg) (o : Owt) : PinMode := if owOe c o then .drivenLow else .floatingInput

/-- The output ports of 10_state.md R34. -/
structure Ports where
  cmdReady  : Bool
  busy      : Bool
  done      : Bool
  presence  : Bool
  errNp     : Bool
  errIll    : Bool
  tempValid : Bool
  status    : Byte
  rdata     : Byte
  tempRaw   : BitVec 16
  owOe      : Bool
  owOut     : Bool
deriving DecidableEq, Repr

/-- Every output is a function of the state at the start of the tick (10_state.md R34). -/
def ports (c : Cfg) (o : Owt) : Ports :=
  { cmdReady := decide (o.run = .idle), busy := decide (o.run = .busy), done := o.done, presence := o.presence,
    errNp := o.errNp, errIll := o.errIll, tempValid := o.tempValid, status := statusByte o, rdata := o.rdata,
    tempRaw := o.tempRaw, owOe := owOe c o, owOut := owOut }

/-! ## Frames on the line and the expansion of commands (30_encoding.md R96 to R99, R104)

A frame is the value of `ow_oe` tick by tick: `true` is `L(1)`, `false` is `Z(1)`. -/

/-- One primitive with the bit it sends: what a command is a sequence of (30_encoding.md R104). -/
inductive LineAction where
  | reset
  | write (b : Bool)
  | read
  | wait
deriving DecidableEq, Repr

/-- The frames of 30_encoding.md R96, R97, R98 and the released wait of 43_thermal_sequencer.md R185. -/
def frame (c : Cfg) : LineAction → List Bool
  | .reset => List.replicate c.tRstl true ++ List.replicate c.tRsth false
  | .write true =>
    List.replicate c.tW1l true ++ List.replicate (c.tSlot - c.tW1l) false ++ List.replicate c.tRec false
  | .write false => List.replicate c.tSlot true ++ List.replicate c.tRec false
  | .read => List.replicate c.tRdl true ++ List.replicate (c.tSlot - c.tRdl) false
  | .wait => List.replicate c.tConv false

/-- Eight write slots, slot i carrying bit i (30_encoding.md R99). -/
def writeByteActions (v : Byte) : List LineAction := (List.range 8).map fun i => .write (v.getLsbD i)

/-- Eight read slots (30_encoding.md R99). -/
def readByteActions : List LineAction := List.replicate 8 .read

/-- The primitives of each command in order (30_encoding.md R104); `p1` and `p2` say whether the slave answered the
first and the second reset of an RTEMP. An illegal word puts nothing on the line (R94); a wire byte is the eight
write slots of its byte (R100). -/
def actions (i : Instr) (p1 p2 : Bool) : List LineAction :=
  match i with
  | .reset => [.reset]
  | .wbit b => [.write (b.getLsbD 0)]
  | .rbit => [.read]
  | .wbyte v => writeByteActions v
  | .rbyte => readByteActions
  | .rtemp =>
    [.reset] ++
      (if p1 then
        writeByteActions 0xCC ++ writeByteActions 0x44 ++ [.wait, .reset] ++
          (if p2 then writeByteActions 0xCC ++ writeByteActions 0xBE ++ readByteActions ++ readByteActions else [])
      else [])
  | .skipRom => writeByteActions 0xCC
  | .convertT => writeByteActions 0x44
  | .readScratchpad => writeByteActions 0xBE
  | .wireSkipRom => writeByteActions 0xCC
  | .wireConvertT => writeByteActions 0x44
  | .wireReadScratchpad => writeByteActions 0xBE
  | .illegal0 => []
  | .illegal7 => []
  | .illegal8F _ => []

/-- Busy ticks of a command (70_reset_and_hazards.md R255). -/
def busyTicks (c : Cfg) (i : Instr) (p1 p2 : Bool) : Nat :=
  match i with
  | .reset => lReset c
  | .wbit _ => lWslot c
  | .rbit => lRslot c
  | .wbyte _ => 8 * lWslot c
  | .rbyte => 8 * lRslot c
  | .rtemp =>
    if p1 then
      if p2 then 2 * lReset c + 32 * lWslot c + c.tConv + 16 * lRslot c
      else 2 * lReset c + 16 * lWslot c + c.tConv
    else lReset c
  | .skipRom => 8 * lWslot c
  | .convertT => 8 * lWslot c
  | .readScratchpad => 8 * lWslot c
  | .wireSkipRom => 8 * lWslot c
  | .wireConvertT => 8 * lWslot c
  | .wireReadScratchpad => 8 * lWslot c
  | .illegal0 => 0
  | .illegal7 => 0
  | .illegal8F _ => 0

end Sys2Proof.Machine
end

