-- ==== Sys2Proof/Machine/Ops.lean ====
section
/-! DEFINITION. The shared operations: reading the inputs of a tick, starting and completing a command, the sample,
the byte counter, starting a wire byte, and the two errors. -/

namespace Sys2Proof.Machine

/-! ## The inputs of the ticks (log 2, log 3) -/

/-- The inputs of the tick that is `j` ticks from now: the listed one, or past the list a free value. -/
def inputAt (s : State) (j : Nat) : TickIn := (s.inputs[j]?).getD (Config.freeInput (s.tick + j))

/-- The inputs of the present tick. -/
def inputNow (s : State) : TickIn := inputAt s 0

/-- The environment `n` ticks on: `n` inputs used up, `owt` and `cfg` as they are. -/
def passTicks (n : Nat) (s : State) : State := { s with inputs := s.inputs.drop n, tick := s.tick + n }

/-- `owt` replaced; the model's own fields as they are. -/
def setOwt (o : Owt) (s : State) : State := { s with owt := o }

/-- The level of the line in the present tick, port `ow_in` (10_state.md R33, 20_memory.md R61). -/
def owIn (s : State) : Level := lineLevel (owOe s.cfg s.owt) (inputNow s).devLow

/-! ## What an end of a primitive leads to -/

/-- Where the control state goes at the end of a tick: to a state, or to the start of a byte of the hardwired
RTEMP program, which `step` then runs as that byte's row (log 6); or nowhere the spec names. -/
inductive Transfer where
  | goto (o : Owt)
  | send (o : Owt) (b : Byte)
  | stuck (f : Fault)
deriving DecidableEq, Repr

/-! ## Starting and completing a command -/

/-- The part of accept that every legal word shares (10_state.md R28). -/
def beginCommand (c : Cmd) (p : Prim) (o : Owt) : Owt :=
  { clearFlags o with run := .busy, k := 0, bitidx := 0, stage := .none, cmd := c, prim := p }

/-- `complete` (10_state.md R31). -/
def complete (o : Owt) : Owt :=
  { o with run := .idle, cmd := .none, stage := .none, prim := .none, k := 0, bitidx := 0, done := true }

/-- `latch` (10_state.md R29): what the sample of a primitive writes. -/
def latch (level : Level) (o : Owt) : Owt :=
  match o.prim with
  | .none => o
  | .reset => { o with presence := presenceOf level }
  | .wslot => o
  | .rslot => { o with sr := shiftIn (levelBit level) o.sr }
  | .wait => o

/-- The shift at the end of a write slot (41_bit_slots.md R140). -/
def shiftSlot (o : Owt) : Owt := { o with sr := shiftOut o.sr }

/-- `k` written; the rest of OWT as it is (10_state.md R32). -/
def setK (n : Nat) (o : Owt) : Owt := { o with k := n }

/-- The next slot of the byte (42_byte_serialization.md R161). -/
def nextSlot (o : Owt) : Owt := { o with bitidx := o.bitidx + 1, k := 0 }

/-- `byte_step` (42_byte_serialization.md R161): `byteDone` at the eighth slot, else the next slot. -/
def byteStep (byteDone : Transfer) (o : Owt) : Transfer :=
  if o.bitidx = 7 then byteDone else .goto (nextSlot o)

/-- A stage of RTEMP and its primitive entered at tick 0 with `bitidx` 0 (43_thermal_sequencer.md R191). -/
def enterStage (st : Stage) (p : Prim) (o : Owt) : Owt := { o with stage := st, prim := p, bitidx := 0, k := 0 }

/-- `start_wbyte` (43_thermal_sequencer.md R191). -/
def startWbyte (st : Stage) (b : Byte) (o : Owt) : Owt := { enterStage st .wslot o with sr := b }

/-! ## The two errors (60_exceptions.md R210): the nearest things to taking an exception

There is no return instruction (60_exceptions.md R219): the next word presented when Idle clears them. -/

/-- `np_abort`, the NotPresent abort (60_exceptions.md R214). -/
def npAbort (o : Owt) : Owt := complete { o with errNp := true }

/-- The IllegalCommand action (60_exceptions.md R215). -/
def illegalCommand (o : Owt) : Owt := { o with errIll := true, errNp := false, done := true }

end Sys2Proof.Machine
end

