-- ==== Sys2Proof/Machine/BitSlots.lean ====
section
/-! DEFINITION. The commands WBIT and RBIT (41_bit_slots.md). -/

namespace Sys2Proof.Machine

/-- WBIT, accept (41_bit_slots.md R141). -/
def acceptWbit (b : BitVec 1) (o : Owt) : Owt := { beginCommand .wbit .wslot o with sr := zext8 b }

/-- RBIT, accept (41_bit_slots.md R146). -/
def acceptRbit (o : Owt) : Owt := beginCommand .rbit .rslot o

/-- WBIT, end, after the shift of the slot (41_bit_slots.md R142). -/
def wbitEnd (o : Owt) : Owt := complete o

/-- RBIT, end (41_bit_slots.md R147). -/
def rbitEnd (o : Owt) : Owt := complete { o with rdata := zext8 (topBit o.sr) }

/-- WBIT: the tick in which the word is taken. -/
def execWbit (b : BitVec 1) (s : State) : Host.Outcome State Fault Refusal := .next (setOwt (acceptWbit b s.owt) s)

/-- RBIT: the tick in which the word is taken. -/
def execRbit (s : State) : Host.Outcome State Fault Refusal := .next (setOwt (acceptRbit s.owt) s)

end Sys2Proof.Machine
end

