-- ==== Sys2Proof/WellFormed.lean ====
section
/-! DEFINITION. Which terms of `Instr` are instructions of the opcode table. -/

namespace Sys2Proof

/-- Every operand at every value its field admits (30_encoding.md R92, R102); the opcode kept by `illegal8F` is one
of its row, 0x8 to 0xF (30_encoding.md R94). -/
def WellFormed : Instr → Bool
  | .reset => true
  | .wbit _ => true
  | .rbit => true
  | .wbyte _ => true
  | .rbyte => true
  | .rtemp => true
  | .skipRom => true
  | .convertT => true
  | .readScratchpad => true
  | .wireSkipRom => true
  | .wireConvertT => true
  | .wireReadScratchpad => true
  | .illegal0 => true
  | .illegal7 => true
  | .illegal8F op => decide (8 ≤ op.toNat)

end Sys2Proof
end

