-- ==== Sys2Proof/Decode.lean ====
section
/-! DEFINITION. Decoding (total, rejecting by name), the naming of pseudo-instructions, and the encoder. -/

namespace Sys2Proof

/-- Field `op` of a command word, bits 11:8 (30_encoding.md R90). -/
def opField (w : CmdWord) : BitVec 4 := w.extractLsb' 8 4

/-- Field `d` of a command word, bits 7:0 (30_encoding.md R90). -/
def dField (w : CmdWord) : Byte := w.extractLsb' 0 8

/-- The operand of WBIT, `d[0]` (30_encoding.md R92). -/
def bitOperand (d : Byte) : BitVec 1 := d.extractLsb' 0 1

/-- The decoder of 30_encoding.md R93, total on all 4096 words. -/
def decodeCmd (w : CmdWord) : Instr :=
  match opField w with
  | 0x0#4 => .illegal0
  | 0x1#4 => .reset
  | 0x2#4 => .wbit (bitOperand (dField w))
  | 0x3#4 => .rbit
  | 0x4#4 => .wbyte (dField w)
  | 0x5#4 => .rbyte
  | 0x6#4 => .rtemp
  | 0x7#4 => .illegal7
  | op => .illegal8F op

/-- SKIP_ROM = 0xCC (00_scope.md R12, 30_encoding.md R100). -/
def skipRomByte : Byte := 0xCC

/-- CONVERT_T = 0x44 (00_scope.md R12, 30_encoding.md R100). -/
def convertTByte : Byte := 0x44

/-- READ_SCRATCHPAD = 0xBE (00_scope.md R12, 30_encoding.md R100). -/
def readScratchpadByte : Byte := 0xBE

/-- DESIGN CHOICE (log 5). A WBYTE word that has a pseudo-instruction's name (30_encoding.md R103) is read under
that name, the row of the opcode table with the longer match; every other instruction is read as it is. -/
def pseudoName : Instr → Instr
  | .wbyte v =>
    if v = skipRomByte then .skipRom
    else if v = convertTByte then .convertT
    else if v = readScratchpadByte then .readScratchpad
    else .wbyte v
  | i => i

/-- The expansion of the pseudo-instructions (30_encoding.md R103); every other instruction is itself. -/
def expand : Instr → Instr
  | .skipRom => .wbyte skipRomByte
  | .convertT => .wbyte convertTByte
  | .readScratchpad => .wbyte readScratchpadByte
  | i => i

/-- Why bits are no instruction. -/
inductive DecodeReject where
  /-- An 8-bit word that is none of the three bytes of 30_encoding.md R100. -/
  | notAWireByte
deriving DecidableEq, Repr

/-- What the decoder answers. -/
inductive Decoded where
  | ok (i : Instr)
  | rejected (r : DecodeReject)
deriving DecidableEq, Repr

/-- The three bytes that OWT sends inside RTEMP (30_encoding.md R100); it sends no other by itself. -/
def decodeWire (b : Byte) : Decoded :=
  if b = skipRomByte then .ok .wireSkipRom
  else if b = convertTByte then .ok .wireConvertT
  else if b = readScratchpadByte then .ok .wireReadScratchpad
  else .rejected .notAWireByte

/-- The machine's decoder: no bit of state changes how a word decodes (30_encoding.md R101). -/
def decode : FetchWord → Decoded
  | .cmd w => .ok (pseudoName (decodeCmd w))
  | .wire b => decodeWire b

/-- The command word with opcode `op` and operand byte `d` (30_encoding.md R90). -/
def cmdWord (op : BitVec 4) (d : Byte) : CmdWord := op ++ d

/-- The words of an instruction; unused operand bits zero, the canonical words of 30_encoding.md R102. -/
def encode : Instr → FetchWord
  | .reset => .cmd (cmdWord 0x1 0)
  | .wbit b => .cmd (cmdWord 0x2 (b.setWidth 8))
  | .rbit => .cmd (cmdWord 0x3 0)
  | .wbyte v => .cmd (cmdWord 0x4 v)
  | .rbyte => .cmd (cmdWord 0x5 0)
  | .rtemp => .cmd (cmdWord 0x6 0)
  | .skipRom => .cmd (cmdWord 0x4 skipRomByte)
  | .convertT => .cmd (cmdWord 0x4 convertTByte)
  | .readScratchpad => .cmd (cmdWord 0x4 readScratchpadByte)
  | .wireSkipRom => .wire skipRomByte
  | .wireConvertT => .wire convertTByte
  | .wireReadScratchpad => .wire readScratchpadByte
  | .illegal0 => .cmd (cmdWord 0x0 0)
  | .illegal7 => .cmd (cmdWord 0x7 0)
  | .illegal8F op => .cmd (cmdWord op 0)

/-- The operand bits of `d` that a command word's opcode uses (30_encoding.md R92, R95). -/
def usedBits (w : CmdWord) : Byte :=
  match opField w with
  | 0x2#4 => 0x01
  | 0x4#4 => 0xFF
  | _ => 0x00

/-- A row of spec/opcode_table.json: where its words live, and its "match" and "mask". -/
inductive TableRow where
  | cmd (value mask : CmdWord)
  | wire (value mask : Byte)
deriving DecidableEq, Repr

/-- The word has the fixed bits of the row. -/
def TableRow.fits : TableRow → FetchWord → Bool
  | .cmd v m, .cmd w => w &&& m == v
  | .wire v m, .wire b => b &&& m == v
  | .cmd _ _, .wire _ => false
  | .wire _ _, .cmd _ => false

/-- Each instruction's row of spec/opcode_table.json, its match and mask as the table writes them. -/
def tableRow : Instr → TableRow
  | .reset => .cmd 0x100 0xF00
  | .wbit _ => .cmd 0x200 0xF00
  | .rbit => .cmd 0x300 0xF00
  | .wbyte _ => .cmd 0x400 0xF00
  | .rbyte => .cmd 0x500 0xF00
  | .rtemp => .cmd 0x600 0xF00
  | .skipRom => .cmd 0x4CC 0xFFF
  | .convertT => .cmd 0x444 0xFFF
  | .readScratchpad => .cmd 0x4BE 0xFFF
  | .wireSkipRom => .wire 0xCC 0xFF
  | .wireConvertT => .wire 0x44 0xFF
  | .wireReadScratchpad => .wire 0xBE 0xFF
  | .illegal0 => .cmd 0x000 0xF00
  | .illegal7 => .cmd 0x700 0xF00
  | .illegal8F _ => .cmd 0x800 0x800

/-- The word that the table's numbering names: a row of 8 bits is a wire byte, a row of 12 bits (16 in whole bytes)
is a command word, whose bits above 11 do not exist (log 15). -/
def fetchWordOf (nbits w : Nat) : Option FetchWord :=
  if nbits ≤ 8 then
    if w < 256 then some (.wire (BitVec.ofNat 8 w)) else none
  else
    if w < 4096 then some (.cmd (BitVec.ofNat 12 w)) else none

/-- The instruction the decoder reads from the bits `w` of a table row of `nbits` bits. -/
def decodeTableWord (nbits w : Nat) : Option Instr :=
  match fetchWordOf nbits w with
  | none => none
  | some f =>
    match decode f with
    | .ok i => some i
    | .rejected _ => none

end Sys2Proof
end

