-- ==== Sys2Proof/Machine/Bytes.lean ====
section
/-! DEFINITION. The commands WBYTE and RBYTE (42_byte_serialization.md) and the three names of WBYTE words
(30_encoding.md R103). -/

namespace Sys2Proof.Machine

/-- WBYTE, accept (42_byte_serialization.md R160). -/
def acceptWbyte (v : Byte) (o : Owt) : Owt := { beginCommand .wbyte .wslot o with sr := v }

/-- RBYTE, accept (42_byte_serialization.md R163). -/
def acceptRbyte (o : Owt) : Owt := beginCommand .rbyte .rslot o

/-- The end of a slot of WBYTE, after its shift (42_byte_serialization.md R161, R162). -/
def wbyteSlotEnd (o : Owt) : Transfer := byteStep (.goto (complete o)) o

/-- The end of a slot of RBYTE (42_byte_serialization.md R164, R165). -/
def rbyteSlotEnd (o : Owt) : Transfer := byteStep (.goto (complete { o with rdata := o.sr })) o

/-- WBYTE: the tick in which the word is taken. -/
def execWbyte (v : Byte) (s : State) : Host.Outcome State Fault Refusal := .next (setOwt (acceptWbyte v s.owt) s)

/-- RBYTE: the tick in which the word is taken. -/
def execRbyte (s : State) : Host.Outcome State Fault Refusal := .next (setOwt (acceptRbyte s.owt) s)

/-- SKIP_ROM: WBYTE 0xCC (30_encoding.md R103). -/
def execSkipRom (s : State) : Host.Outcome State Fault Refusal := .next (setOwt (acceptWbyte skipRomByte s.owt) s)

/-- CONVERT_T: WBYTE 0x44 (30_encoding.md R103). -/
def execConvertT (s : State) : Host.Outcome State Fault Refusal := .next (setOwt (acceptWbyte convertTByte s.owt) s)

/-- READ_SCRATCHPAD: WBYTE 0xBE (30_encoding.md R103). -/
def execReadScratchpad (s : State) : Host.Outcome State Fault Refusal :=
  .next (setOwt (acceptWbyte readScratchpadByte s.owt) s)

end Sys2Proof.Machine
end

