-- ==== Sys2Proof/Machine/Illegal.lean ====
section
/-! DEFINITION. The words with an illegal opcode (30_encoding.md R94, 60_exceptions.md R215). -/

namespace Sys2Proof.Machine

/-- `op` 0x0: the IllegalCommand action. -/
def execIllegal0 (s : State) : Host.Outcome State Fault Refusal := .next (setOwt (illegalCommand s.owt) s)

/-- `op` 0x7: the IllegalCommand action. -/
def execIllegal7 (s : State) : Host.Outcome State Fault Refusal := .next (setOwt (illegalCommand s.owt) s)

/-- `op` 0x8 to 0xF: the IllegalCommand action; the opcode is not recorded (60_exceptions.md R213). -/
def execIllegal8F (_op : BitVec 4) (s : State) : Host.Outcome State Fault Refusal :=
  .next (setOwt (illegalCommand s.owt) s)

end Sys2Proof.Machine
end

