-- ==== Sys2Proof/Machine/ResetPresence.lean ====
section
/-! DEFINITION. The command RESET (40_reset_presence.md). -/

namespace Sys2Proof.Machine

/-- RESET, accept (40_reset_presence.md R122). -/
def acceptReset (o : Owt) : Owt := clearPresence (beginCommand .reset .reset o)

/-- RESET, end (40_reset_presence.md R123). -/
def resetEnd (o : Owt) : Owt := complete (setErrNp o)

/-- RESET: the tick in which the word is taken (10_state.md R28, 40_reset_presence.md R122). -/
def execReset (s : State) : Host.Outcome State Fault Refusal := .next (setOwt (acceptReset s.owt) s)

end Sys2Proof.Machine
end

