-- ==== Sys2Proof/Machine/Thermal.lean ====
section
/-! DEFINITION. The command RTEMP, its sequencer, and the three bytes it sends (43_thermal_sequencer.md). -/

namespace Sys2Proof.Machine

/-- RTEMP, accept (43_thermal_sequencer.md R181). -/
def acceptRtemp (o : Owt) : Owt := { clearTempValid (clearPresence (beginCommand .rtemp .reset o)) with stage := .rst1 }

/-- RTEMP: the tick in which the word is taken. -/
def execRtemp (s : State) : Host.Outcome State Fault Refusal := .next (setOwt (acceptRtemp s.owt) s)

/-- A successful end of ST_LSB: the byte read is kept and the second byte begins (43_thermal_sequencer.md R189). -/
def lsbDone (o : Owt) : Owt := { o with lsbTmp := o.sr, stage := .msb, bitidx := 0, k := 0 }

/-- A successful end of ST_MSB: the reading is written whole and RTEMP completes (43_thermal_sequencer.md R190). -/
def msbDone (o : Owt) : Owt := complete { o with tempRaw := composeReading o.sr o.lsbTmp, tempValid := true }

/-- `rtemp_prim_end` (43_thermal_sequencer.md R191). Where the rule calls `start_wbyte`, the transfer is `send`, and
the byte's own row makes the call (log 6). -/
def rtempPrimEnd (o : Owt) : Transfer :=
  match o.stage with
  | .none => .stuck .noStage
  | .rst1 => if o.presence then .send o skipRomByte else .goto (npAbort o)
  | .skip1 => byteStep (.send o convertTByte) o
  | .conv => byteStep (.goto (enterStage .wait .wait o)) o
  | .wait => .goto { o with stage := .rst2, prim := .reset, k := 0 }
  | .rst2 => if o.presence then .send o skipRomByte else .goto (npAbort o)
  | .skip2 => byteStep (.send o readScratchpadByte) o
  | .rdsp => byteStep (.goto (enterStage .lsb .rslot o)) o
  | .lsb => byteStep (.goto (lsbDone o)) o
  | .msb => byteStep (.goto (msbDone o)) o

/-- The wire byte 0xCC, sent as the first byte after each reset (43_thermal_sequencer.md R191, R192). -/
def execWireSkipRom (s : State) : Host.Outcome State Fault Refusal :=
  match s.owt.stage with
  | .rst1 => .next (setOwt (startWbyte .skip1 skipRomByte s.owt) s)
  | .rst2 => .next (setOwt (startWbyte .skip2 skipRomByte s.owt) s)
  | _ => .fault .wireByteOffSequence

/-- The wire byte 0x44, the second byte after the first reset (43_thermal_sequencer.md R191, R193). -/
def execWireConvertT (s : State) : Host.Outcome State Fault Refusal :=
  match s.owt.stage with
  | .skip1 => .next (setOwt (startWbyte .conv convertTByte s.owt) s)
  | _ => .fault .wireByteOffSequence

/-- The wire byte 0xBE, the second byte after the second reset (43_thermal_sequencer.md R191, R194). -/
def execWireReadScratchpad (s : State) : Host.Outcome State Fault Refusal :=
  match s.owt.stage with
  | .skip2 => .next (setOwt (startWbyte .rdsp readScratchpadByte s.owt) s)
  | _ => .fault .wireByteOffSequence

end Sys2Proof.Machine
end

