-- ==== Sys2Proof/Machine/Dispatch.lean ====
section
/-! DEFINITION. The one match from an instruction to its meaning. -/

namespace Sys2Proof.Machine

def exec (i : Instr) (s : State) : Host.Outcome State Fault Refusal :=
  match i with
  | .reset => Sys2Proof.Machine.execReset s
  | .wbit b => Sys2Proof.Machine.execWbit b s
  | .rbit => Sys2Proof.Machine.execRbit s
  | .wbyte v => Sys2Proof.Machine.execWbyte v s
  | .rbyte => Sys2Proof.Machine.execRbyte s
  | .rtemp => Sys2Proof.Machine.execRtemp s
  | .skipRom => Sys2Proof.Machine.execSkipRom s
  | .convertT => Sys2Proof.Machine.execConvertT s
  | .readScratchpad => Sys2Proof.Machine.execReadScratchpad s
  | .wireSkipRom => Sys2Proof.Machine.execWireSkipRom s
  | .wireConvertT => Sys2Proof.Machine.execWireConvertT s
  | .wireReadScratchpad => Sys2Proof.Machine.execWireReadScratchpad s
  | .illegal0 => Sys2Proof.Machine.execIllegal0 s
  | .illegal7 => Sys2Proof.Machine.execIllegal7 s
  | .illegal8F op => Sys2Proof.Machine.execIllegal8F op s

end Sys2Proof.Machine
end

