-- ==== Sys2Proof/Machine/Tick.lean ====
section
/-! DEFINITION. One tick (10_state.md R27) up to the instruction it runs, and the placing of an instruction where the
next step fetches it. -/

namespace Sys2Proof.Machine

/-- `end_prim` (10_state.md R30): the shift of a write slot, then the command's own end. -/
def endPrim (o : Owt) : Transfer :=
  let o1 := if o.prim = .wslot then shiftSlot o else o
  match o1.cmd with
  | .none => .stuck .noCommand
  | .reset => .goto (resetEnd o1)
  | .wbit => .goto (wbitEnd o1)
  | .rbit => .goto (rbitEnd o1)
  | .wbyte => wbyteSlotEnd o1
  | .rbyte => rbyteSlotEnd o1
  | .rtemp => rtempPrimEnd o1

/-- The sample of the tick, if it is the sample tick of its primitive (10_state.md R27, R29). -/
def sampled (c : Cfg) (level : Level) (o : Owt) : Owt :=
  if primSample c o.prim = some o.k then latch level o else o

/-- The Busy part of 10_state.md R27: the sample first, then the end of the primitive or the next tick of it. -/
def busyTick (c : Cfg) (level : Level) (o : Owt) : Transfer :=
  if o.prim = .none then .stuck .noPrimitive
  else
    let o1 := sampled c level o
    if o1.k = primLen c o1.prim - 1 then endPrim o1 else .goto (setK (nextK c o1.k) o1)

/-- What a step does, before it is carried out: the tick of 10_state.md R27 and 60_exceptions.md R217. -/
inductive Plan where
  | refuse (r : Refusal)
  | stop (f : Fault)
  | goto (s : State)
  | run (w : FetchWord) (s : State)
deriving DecidableEq, Repr

/-- The next word the sequencer fetches, or the state a transfer leads to. -/
def planOf (s : State) : Transfer → Plan
  | .goto o => .goto (setOwt o s)
  | .send o b => .run (.wire b) (setOwt o s)
  | .stuck f => .stop f

/-- One tick (10_state.md R27; order of events 60_exceptions.md R217): `rst` first; Idle, a presented word; Busy,
the tick of the primitive. An ill-formed configuration is refused (00_scope.md R9, log 9). -/
def planTick (s : State) : Plan :=
  if CfgWf s.cfg then
    if (inputNow s).rst then .goto (setOwt Owt.reset (passTicks 1 s))
    else
      match s.owt.run with
      | .idle =>
        if (inputNow s).cmdValid then .run (.cmd (inputNow s).cmdWord) (passTicks 1 s) else .goto (passTicks 1 s)
      | .busy => planOf (passTicks 1 s) (busyTick s.cfg (owIn s) s.owt)
  else .refuse .cfgNotWellFormed

/-! ## Placing an instruction where the next step fetches it (log 4) -/

/-- The control state of an Idle OWT (10_state.md R22, R40 item 1). -/
def idleForm (o : Owt) : Owt :=
  { o with run := .idle, cmd := .none, stage := .none, prim := .none, k := 0, bitidx := 0 }

/-- The last tick of the last primitive of a stage of RTEMP. -/
def stageEnd (c : Cfg) (st : Stage) (p : Prim) (i : BitVec 3) (o : Owt) : Owt :=
  { o with run := .busy, cmd := .rtemp, stage := st, prim := p, k := primLen c p - 1, bitidx := i, presence := true }

/-- The present tick's inputs replaced. -/
def setInput (i : TickIn) (s : State) : State := { s with inputs := i :: s.inputs.tail }

/-- The next step fetches `f`: a command word is presented to an Idle OWT; a wire byte stands next in the RTEMP
sequence, at the end of the first stage after which 43_thermal_sequencer.md R191 sends it, with the slave present.
A byte OWT never sends has no place: the state stays. -/
def placeWord (f : FetchWord) (s : State) : State :=
  match f with
  | .cmd w => setInput { rst := false, cmdValid := true, cmdWord := w, devLow := false } (setOwt (idleForm s.owt) s)
  | .wire b =>
    let quiet := setInput { rst := false, cmdValid := false, cmdWord := 0, devLow := true } s
    if b = skipRomByte then setOwt (stageEnd s.cfg .rst1 .reset 0 s.owt) quiet
    else if b = convertTByte then setOwt (stageEnd s.cfg .skip1 .wslot 7 s.owt) quiet
    else if b = readScratchpadByte then setOwt (stageEnd s.cfg .skip2 .wslot 7 s.owt) quiet
    else s

/-- `placeWord` for the bits of a row of the opcode table. -/
def placeTableWord (s : State) (nbits w : Nat) : State :=
  match fetchWordOf nbits w with
  | none => s
  | some f => placeWord f s

end Sys2Proof.Machine
end

