-- ==== Sys2Proof/Machine/Step.lean ====
section
/-! DEFINITION. The step function: one tick. -/

namespace Sys2Proof.Machine

/-- One step is one tick (10_state.md R20, R27): the plan of the tick, and the instruction it fetches, decoded. -/
def step (s : State) : Host.Outcome State Fault Refusal :=
  match planTick s with
  | .refuse r => .refused r
  | .stop f => .fault f
  | .goto t => .next t
  | .run w t =>
    match decode w with
    | .ok i => exec i t
    | .rejected .notAWireByte => .refused .notAWireByte

/-- `s` with a table row's word standing where `step` fetches next (log 4). -/
def State.withFetchWord (s : State) (nbits w : Nat) : State := placeTableWord s nbits w

end Sys2Proof.Machine
end

