-- ==== Sys2Proof/Safety.lean ====
section
/-! DEFINITION. Runs, what is observed of them, and the invariant of the reachable states (10_state.md R40). -/

namespace Sys2Proof.Machine

/-! ## Runs -/

/-- `n` ticks, stopping at the first fault or refusal. -/
def runTicks : Nat → State → Host.Outcome State Fault Refusal
  | 0, s => .next s
  | n + 1, s =>
    match step s with
    | .next t => runTicks n t
    | .fault f => .fault f
    | .refused r => .refused r

/-- `ow_oe` at the start of `n` successive ticks. -/
def driveTrace : Nat → State → List Bool
  | 0, _ => []
  | n + 1, s =>
    owOe s.cfg s.owt ::
      (match step s with
      | .next t => driveTrace n t
      | .fault _ => []
      | .refused _ => [])

/-- The host presents the word `w` in the present tick, and no reset (10_state.md R36). -/
def Presents (s : State) (w : CmdWord) : Prop :=
  (inputNow s).rst = false ∧ (inputNow s).cmdValid = true ∧ (inputNow s).cmdWord = w

/-- `rst` is 0 in the `n` ticks after the present one (70_reset_and_hazards.md R256 item c). -/
def NoResetFor (s : State) (n : Nat) : Prop := ∀ j, j < n → (inputAt s (1 + j)).rst = false

/-- The slave pulls low `j` ticks from now (20_memory.md R61). -/
def pullAt (s : State) (j : Nat) : Bool := (inputAt s j).devLow

/-! ## The invariant -/

/-- The primitive a command has in progress at a stage (10_state.md R28, 43_thermal_sequencer.md R180). -/
def primFor : Cmd → Stage → Prim
  | .none, _ => .none
  | .reset, _ => .reset
  | .wbit, _ => .wslot
  | .rbit, _ => .rslot
  | .wbyte, _ => .wslot
  | .rbyte, _ => .rslot
  | .rtemp, .none => .none
  | .rtemp, .rst1 => .reset
  | .rtemp, .skip1 => .wslot
  | .rtemp, .conv => .wslot
  | .rtemp, .wait => .wait
  | .rtemp, .rst2 => .reset
  | .rtemp, .skip2 => .wslot
  | .rtemp, .rdsp => .wslot
  | .rtemp, .lsb => .rslot
  | .rtemp, .msb => .rslot

/-- The command and stage that move a byte: where `bitidx` may count (10_state.md R40 item 8). -/
def movesByte : Cmd → Stage → Bool
  | .wbyte, _ => true
  | .rbyte, _ => true
  | .rtemp, .skip1 => true
  | .rtemp, .conv => true
  | .rtemp, .skip2 => true
  | .rtemp, .rdsp => true
  | .rtemp, .lsb => true
  | .rtemp, .msb => true
  | _, _ => false

/-- The stages that RTEMP enters only when a slave answered (43_thermal_sequencer.md R182, R186). -/
def afterPresence : Stage → Bool
  | .none => false
  | .rst1 => false
  | .skip1 => true
  | .conv => true
  | .wait => true
  | .rst2 => false
  | .skip2 => true
  | .rdsp => true
  | .lsb => true
  | .msb => true

/-- Items 1 to 6 and 8 of 10_state.md R40, over a state of OWT. -/
structure ReachableForm (c : Cfg) (o : Owt) : Prop where
  idleCmd : o.run = .idle ↔ o.cmd = .none
  idlePrim : o.run = .idle ↔ o.prim = .none
  idleCounters : o.run = .idle → o.stage = .none ∧ o.k = 0 ∧ o.bitidx = 0
  idleReleased : o.run = .idle → owOe c o = false
  busyTickInside : o.run = .busy → o.k < primLen c o.prim
  stageOfRtemp : o.stage ≠ .none ↔ o.cmd = .rtemp
  oneError : ¬(o.errNp = true ∧ o.errIll = true)
  doneIdle : o.done = true → o.run = .idle
  countsInBytes : o.bitidx ≠ 0 → movesByte o.cmd o.stage = true

/-- What the step function keeps besides: the primitive is the one of the command's stage, no error flag is up while
Busy, `temp_valid` is 0 during RTEMP, `presence` is 1 in the stages after a reset that was answered, and `k` is a
value of TICKW bits. -/
structure StepForm (c : Cfg) (o : Owt) : Prop where
  primOfStage : o.prim = primFor o.cmd o.stage
  busyNoError : o.run = .busy → o.errNp = false ∧ o.errIll = false
  rtempNotValid : o.cmd = .rtemp → o.tempValid = false
  presenceKept : afterPresence o.stage = true → o.presence = true
  kWidth : o.k < 2 ^ c.tickw

/-- The invariant of the machine: a well-formed configuration, and every form above. -/
structure Inv (s : State) : Prop where
  cfgWf : CfgWf s.cfg
  reachable : ReachableForm s.cfg s.owt
  form : StepForm s.cfg s.owt

/-! ## Ticks, named -/

/-- The stage after a stage (43_thermal_sequencer.md R180); ST_MSB and ST_NONE have none. -/
def nextStage : Stage → Stage
  | .none => .none
  | .rst1 => .skip1
  | .skip1 => .conv
  | .conv => .wait
  | .wait => .rst2
  | .rst2 => .skip2
  | .skip2 => .rdsp
  | .rdsp => .lsb
  | .lsb => .msb
  | .msb => .none

/-- `op in {1, ..., 6}` (10_state.md R28). -/
def legalOp (op : BitVec 4) : Bool := decide (1 ≤ op.toNat ∧ op.toNat ≤ 6)

/-- The command and the stage that a legal opcode enters (10_state.md R28). -/
def commandOf (op : BitVec 4) : Cmd × Stage :=
  match op with
  | 0x1#4 => (.reset, .none)
  | 0x2#4 => (.wbit, .none)
  | 0x3#4 => (.rbit, .none)
  | 0x4#4 => (.wbyte, .none)
  | 0x5#4 => (.rbyte, .none)
  | 0x6#4 => (.rtemp, .rst1)
  | _ => (.none, .none)

/-- The present tick is the sample tick of the primitive in progress (20_memory.md R64). -/
def AtSample (s : State) : Prop := s.owt.run = .busy ∧ primSample s.cfg s.owt.prim = some s.owt.k

/-- The present tick is the last of the primitive in progress (10_state.md R32). -/
def AtPrimEnd (s : State) : Prop := s.owt.run = .busy ∧ s.owt.k = primLen s.cfg s.owt.prim - 1

/-- The present tick is the last of the eighth slot of a byte (42_byte_serialization.md R161). -/
def AtByteEnd (s : State) : Prop := AtPrimEnd s ∧ s.owt.bitidx = 7

/-- A command word is taken or refused in this tick: Idle and presented (10_state.md R27). -/
def WordTaken (s : State) : Prop := s.owt.run = .idle ∧ (inputNow s).cmdValid = true

end Sys2Proof.Machine
end

