-- ==== Sys2Proof/Certificates/Slice0/Obligations.lean ====
section
/-! DEFINITION. The statements about the machine, for the provers. -/

open Sys2Proof Sys2Proof.Machine

/-! ## Reset, the configuration and the shape of a step -/

/-- 10_state.md R38: `RESET_STATE`, and the outputs in it. -/
def Obligations.ResetStateValues : Prop :=
  State.reset.owt =
      { run := .idle, cmd := .none, stage := .none, prim := .none, k := 0, bitidx := 0, sr := 0x00, lsbTmp := 0x00,
        rdata := 0x00, tempRaw := 0x0000, done := false, presence := false, errNp := false, errIll := false,
        tempValid := false } ∧
    ∀ c : Cfg, (ports c State.reset.owt).cmdReady = true ∧ (ports c State.reset.owt).busy = false ∧
      (ports c State.reset.owt).owOe = false ∧ (ports c State.reset.owt).status = 0x00

/-- 70_reset_and_hazards.md R240: in a tick with `rst` the next state is `RESET_STATE`, whatever the state and the
other inputs are. It stays so while `rst` stays 1, and the first tick without it is an ordinary Idle tick. -/
def Obligations.ResetInputWins : Prop :=
  ∀ s : State, CfgWf s.cfg → (inputNow s).rst = true →
    step s = .next (setOwt State.reset.owt (passTicks 1 s)) ∧
      ∀ t : State, t = setOwt State.reset.owt (passTicks 1 s) →
        ((inputNow t).rst = true → step t = .next (setOwt State.reset.owt (passTicks 1 t))) ∧
          ((inputNow t).rst = false → (inputNow t).cmdValid = false → step t = .next (passTicks 1 t)) ∧
          ((inputNow t).rst = false → (inputNow t).cmdValid = true → ∀ i : Instr,
            decode (.cmd (inputNow t).cmdWord) = .ok i → step t = exec i (passTicks 1 t))

/-- 00_scope.md R8, R9: the derived lengths, the defaults, well formed meaning every bound of the table, and the
refusal of an ill-formed configuration, in a tick with `rst` too, the model's choice (log 9). -/
def Obligations.IllFormedConfigurationRefused : Prop :=
  (∀ c : Cfg, lReset c = c.tRstl + c.tRsth ∧ lWslot c = c.tSlot + c.tRec ∧ lRslot c = c.tSlot ∧ lWait c = c.tConv) ∧
    (lReset Cfg.default = 960 ∧ lWslot Cfg.default = 70 ∧ lRslot Cfg.default = 60 ∧ lWait Cfg.default = 750000) ∧
    Cfg.default =
      { tRstl := 480, tPds := 70, tRsth := 480, tW1l := 6, tSlot := 60, tRec := 10, tRdl := 2, tRds := 10,
        tConv := 750000, tickw := 20 } ∧
    CfgWf Cfg.default ∧
    (∀ c : Cfg, CfgWf c ↔
      c.tRstl ≥ 480 ∧ 60 ≤ c.tPds ∧ c.tPds ≤ 239 ∧ c.tPds < c.tRsth ∧ 1 ≤ c.tW1l ∧ c.tW1l ≤ 14 ∧
      c.tW1l < c.tSlot ∧ c.tRdl + c.tRds < c.tSlot ∧ c.tRec ≥ 1 ∧ 1 ≤ c.tRdl ∧ c.tRdl ≤ 2 ∧
      1 ≤ c.tRds ∧ c.tRds ≤ 14 ∧ c.tRdl + c.tRds ≤ 15 ∧ c.tConv ≥ 750000 ∧
      c.tRstl + c.tRsth ≤ 2 ^ c.tickw ∧ c.tSlot + c.tRec ≤ 2 ^ c.tickw ∧ c.tSlot ≤ 2 ^ c.tickw ∧
      c.tConv ≤ 2 ^ c.tickw) ∧
    ∀ s : State, ¬CfgWf s.cfg → step s = .refused .cfgNotWellFormed

/-- A step runs the decoded instruction (10_state.md R27, R36): Idle, without reset, a presented word is decoded and
its meaning runs on the state one tick on (the model's own `inputs` and `tick` moved, log 2 and 3). -/
def Obligations.StepRunsPresentedCommand : Prop :=
  ∀ (s : State) (i : Instr), CfgWf s.cfg → (inputNow s).rst = false → s.owt.run = .idle →
    (inputNow s).cmdValid = true → decode (.cmd (inputNow s).cmdWord) = .ok i → step s = exec i (passTicks 1 s)

/-- A step runs the decoded wire byte (the model's form of the sequencer's `start_wbyte`, log 6). -/
def Obligations.StepRunsSequencerByte : Prop :=
  ∀ (s : State) (o : Owt) (b : Byte) (i : Instr), CfgWf s.cfg → (inputNow s).rst = false → s.owt.run = .busy →
    busyTick s.cfg (owIn s) s.owt = .send o b → decode (.wire b) = .ok i → step s = exec i (setOwt o (passTicks 1 s))

/-- 10_state.md R27: an Idle OWT with no command presented holds its state. -/
def Obligations.IdleHoldsWithoutCommand : Prop :=
  ∀ s : State, CfgWf s.cfg → (inputNow s).rst = false → s.owt.run = .idle → (inputNow s).cmdValid = false →
    step s = .next (passTicks 1 s)

/-- No step changes the configuration (44_common_laws.md R276), and a step uses up exactly one tick of the
environment (the model's own fields, log 2 and 3). -/
def Obligations.StepKeepsConfiguration : Prop :=
  ∀ s t : State, step s = .next t → t.cfg = s.cfg ∧ t.inputs = s.inputs.drop 1 ∧ t.tick = s.tick + 1

/-! ## The accept of each command: its encoding, its effect, and its frame -/

/-- 40_reset_presence.md R122. -/
def Obligations.ResetCommandAccepted : Prop :=
  (∀ w : CmdWord, opField w = 0x1 → decode (.cmd w) = .ok .reset) ∧ encode .reset = .cmd 0x100 ∧
    ∀ s : State, s.owt.run = .idle →
      exec .reset s = .next { s with owt := { s.owt with
        done := false, errNp := false, errIll := false, presence := false, run := .busy, cmd := .reset,
        prim := .reset, k := 0, bitidx := 0, stage := .none } }

/-- 41_bit_slots.md R141. -/
def Obligations.WriteBitAccepted : Prop :=
  (∀ w : CmdWord, opField w = 0x2 → decode (.cmd w) = .ok (.wbit (w.extractLsb' 0 1))) ∧
    encode (.wbit 0) = .cmd 0x200 ∧ encode (.wbit 1) = .cmd 0x201 ∧
    ∀ (s : State) (b : BitVec 1), s.owt.run = .idle →
      exec (.wbit b) s = .next { s with owt := { s.owt with
        done := false, errNp := false, errIll := false, run := .busy, cmd := .wbit, prim := .wslot, k := 0,
        bitidx := 0, stage := .none, sr := b.setWidth 8 } }

/-- 41_bit_slots.md R146. -/
def Obligations.ReadBitAccepted : Prop :=
  (∀ w : CmdWord, opField w = 0x3 → decode (.cmd w) = .ok .rbit) ∧ encode .rbit = .cmd 0x300 ∧
    ∀ s : State, s.owt.run = .idle →
      exec .rbit s = .next { s with owt := { s.owt with
        done := false, errNp := false, errIll := false, run := .busy, cmd := .rbit, prim := .rslot, k := 0,
        bitidx := 0, stage := .none } }

/-- 42_byte_serialization.md R160. The word is read under its pseudo-instruction's name where it has one (log 5). -/
def Obligations.WriteByteAccepted : Prop :=
  (∀ v : Byte, ∀ i : Instr, decode (.cmd (0x4#4 ++ v)) = .ok i → expand i = .wbyte v) ∧
    (∀ v : Byte, encode (.wbyte v) = .cmd (0x400 + v.setWidth 12)) ∧
    ∀ (s : State) (v : Byte), s.owt.run = .idle →
      exec (.wbyte v) s = .next { s with owt := { s.owt with
        done := false, errNp := false, errIll := false, run := .busy, cmd := .wbyte, prim := .wslot, k := 0,
        bitidx := 0, stage := .none, sr := v } }

/-- 42_byte_serialization.md R163, but for its remark on the eight samples, which `ReadByteRun` states. -/
def Obligations.ReadByteAccepted : Prop :=
  (∀ w : CmdWord, opField w = 0x5 → decode (.cmd w) = .ok .rbyte) ∧ encode .rbyte = .cmd 0x500 ∧
    ∀ s : State, s.owt.run = .idle →
      exec .rbyte s = .next { s with owt := { s.owt with
        done := false, errNp := false, errIll := false, run := .busy, cmd := .rbyte, prim := .rslot, k := 0,
        bitidx := 0, stage := .none } }

/-- 43_thermal_sequencer.md R181. -/
def Obligations.TemperatureAccepted : Prop :=
  (∀ w : CmdWord, opField w = 0x6 → decode (.cmd w) = .ok .rtemp) ∧ encode .rtemp = .cmd 0x600 ∧
    ∀ s : State, s.owt.run = .idle →
      exec .rtemp s = .next { s with owt := { s.owt with
        done := false, errNp := false, errIll := false, presence := false, tempValid := false, run := .busy,
        cmd := .rtemp, stage := .rst1, prim := .reset, k := 0, bitidx := 0 } }

/-- 30_encoding.md R103: the three names expand to WBYTE with a fixed operand: the words and the effect. -/
def Obligations.PseudoCommandsExpandToWriteByte : Prop :=
  (expand .skipRom = .wbyte 0xCC ∧ expand .convertT = .wbyte 0x44 ∧ expand .readScratchpad = .wbyte 0xBE) ∧
    (encode .skipRom = .cmd 0x4CC ∧ encode .convertT = .cmd 0x444 ∧ encode .readScratchpad = .cmd 0x4BE) ∧
    ∀ (s : State) (i : Instr) (v : Byte), s.owt.run = .idle →
      (i = .skipRom ∧ v = 0xCC ∨ i = .convertT ∧ v = 0x44 ∨ i = .readScratchpad ∧ v = 0xBE) →
        exec i s = .next { s with owt := { s.owt with
            done := false, errNp := false, errIll := false, run := .busy, cmd := .wbyte, prim := .wslot, k := 0,
            bitidx := 0, stage := .none, sr := v } } ∧
          exec i s = exec (.wbyte v) s

/-- 60_exceptions.md R215 with 30_encoding.md R94: which words are illegal, and the action, which leaves the line
alone. -/
def Obligations.IllegalCommandAction : Prop :=
  (∀ w : CmdWord, opField w = 0x0 → decode (.cmd w) = .ok .illegal0) ∧
    (∀ w : CmdWord, opField w = 0x7 → decode (.cmd w) = .ok .illegal7) ∧
    (∀ w : CmdWord, 0x8 ≤ (opField w).toNat → decode (.cmd w) = .ok (.illegal8F (opField w))) ∧
    ∀ (s : State) (i : Instr), s.owt.run = .idle → (i = .illegal0 ∨ i = .illegal7 ∨ ∃ op, i = .illegal8F op) →
      exec i s = .next { s with owt := { s.owt with errIll := true, errNp := false, done := true } } ∧
        ∀ t : State, exec i s = .next t → t.owt.run = .idle ∧ owOe t.cfg t.owt = false

/-- The three wire bytes start their stage (`start_wbyte` of 43_thermal_sequencer.md R191; as rows of the opcode table
they are the model's form of it, log 6). -/
def Obligations.WireBytesStartTheirStage : Prop :=
  ∀ s : State, s.owt.run = .busy → s.owt.cmd = .rtemp →
    (s.owt.stage = .rst1 → exec .wireSkipRom s =
      .next { s with owt := { s.owt with stage := .skip1, prim := .wslot, sr := 0xCC, bitidx := 0, k := 0 } }) ∧
    (s.owt.stage = .rst2 → exec .wireSkipRom s =
      .next { s with owt := { s.owt with stage := .skip2, prim := .wslot, sr := 0xCC, bitidx := 0, k := 0 } }) ∧
    (s.owt.stage = .skip1 → exec .wireConvertT s =
      .next { s with owt := { s.owt with stage := .conv, prim := .wslot, sr := 0x44, bitidx := 0, k := 0 } }) ∧
    (s.owt.stage = .skip2 → exec .wireReadScratchpad s =
      .next { s with owt := { s.owt with stage := .rdsp, prim := .wslot, sr := 0xBE, bitidx := 0, k := 0 } })

/-- A wire byte outside its place in the sequence stops (the model's choice, log 7: OWT sends it only inside RTEMP,
30_encoding.md R100). -/
def Obligations.WireBytesStopElsewhere : Prop :=
  ∀ s : State,
    (s.owt.stage ≠ .rst1 → s.owt.stage ≠ .rst2 → exec .wireSkipRom s = .fault .wireByteOffSequence) ∧
    (s.owt.stage ≠ .skip1 → exec .wireConvertT s = .fault .wireByteOffSequence) ∧
    (s.owt.stage ≠ .skip2 → exec .wireReadScratchpad s = .fault .wireByteOffSequence)

/-! ## Encoding -/

/-- Words written out from 30_encoding.md R91, R100 and R103 decode to their instructions (95_test_vectors.md section 6).
That 0x4CC, 0x444 and 0x4BE read under their pseudo-instructions' names is the model's choice (log 5), and so is that a
byte OWT never sends is rejected by name (log 7). -/
def Obligations.TableWordsDecode : Prop :=
  decode (.cmd 0x000) = .ok .illegal0 ∧ decode (.cmd 0x1A5) = .ok .reset ∧ decode (.cmd 0x201) = .ok (.wbit 1) ∧
    decode (.cmd 0x2FE) = .ok (.wbit 0) ∧ decode (.cmd 0x300) = .ok .rbit ∧ decode (.cmd 0x4FF) = .ok (.wbyte 0xFF) ∧
    decode (.cmd 0x4CC) = .ok .skipRom ∧ decode (.cmd 0x444) = .ok .convertT ∧
    decode (.cmd 0x4BE) = .ok .readScratchpad ∧ decode (.cmd 0x500) = .ok .rbyte ∧ decode (.cmd 0x6FF) = .ok .rtemp ∧
    decode (.cmd 0x700) = .ok .illegal7 ∧ decode (.cmd 0xFFF) = .ok (.illegal8F 0xF) ∧
    decode (.wire 0xCC) = .ok .wireSkipRom ∧ decode (.wire 0x44) = .ok .wireConvertT ∧
    decode (.wire 0xBE) = .ok .wireReadScratchpad ∧ decode (.wire 0x00) = .rejected .notAWireByte

/-- 30_encoding.md R93: every one of the 4096 words decodes as the rule's case list says, up to the names of R103. -/
def Obligations.EveryCommandWordDecodes : Prop :=
  ∀ w : CmdWord, ∃ i : Instr, decode (.cmd w) = .ok i ∧
    (w.extractLsb' 8 4 = 0x1 → i = .reset) ∧
    (w.extractLsb' 8 4 = 0x2 → i = .wbit (w.extractLsb' 0 1)) ∧
    (w.extractLsb' 8 4 = 0x3 → i = .rbit) ∧
    (w.extractLsb' 8 4 = 0x4 → expand i = .wbyte (w.extractLsb' 0 8)) ∧
    (w.extractLsb' 8 4 = 0x5 → i = .rbyte) ∧
    (w.extractLsb' 8 4 = 0x6 → i = .rtemp) ∧
    (w.extractLsb' 8 4 = 0x0 → i = .illegal0) ∧
    (w.extractLsb' 8 4 = 0x7 → i = .illegal7) ∧
    (0x8 ≤ (w.extractLsb' 8 4).toNat → i = .illegal8F (w.extractLsb' 8 4))

/-- Decode and encode agree on every instruction, every operand at every value; a WBYTE word that has a name of its own
(30_encoding.md R103) is read under that name (log 5), and the name expands back. -/
def Obligations.DecodeEncodeRoundTrip : Prop :=
  (∀ i : Instr, WellFormed i = true → decode (encode i) = .ok (pseudoName i)) ∧
    (∀ i : Instr, WellFormed i = true → (∀ v, i = .wbyte v → v ≠ 0xCC ∧ v ≠ 0x44 ∧ v ≠ 0xBE) →
      decode (encode i) = .ok i) ∧
    ∀ (i : Instr) (v : Byte), decode (encode (.wbyte v)) = .ok i → expand i = .wbyte v

/-- 30_encoding.md R95: which bits of `d` are ignored, and that ignored bits have no effect on the decoding; and no used
bit is dropped: the instruction's own words agree with the word decoded in the opcode and every used bit
(unused bits 0, for illegal words too, the model's choice, log 14). -/
def Obligations.IgnoredOperandBits : Prop :=
  (∀ w : CmdWord, (opField w = 0x1 ∨ opField w = 0x3 ∨ opField w = 0x5 ∨ opField w = 0x6 → usedBits w = 0x00) ∧
      (opField w = 0x2 → usedBits w = 0x01) ∧ (opField w = 0x4 → usedBits w = 0xFF)) ∧
    (∀ w w' : CmdWord, opField w = opField w' → dField w &&& usedBits w = dField w' &&& usedBits w' →
      decode (.cmd w) = decode (.cmd w')) ∧
    ∀ (w : CmdWord) (i : Instr), decode (.cmd w) = .ok i →
      WellFormed i = true ∧ encode i = .cmd (opField w ++ (dField w &&& usedBits w))

/-! ## Primitives, the line, the ports -/

/-- 10_state.md R24: the table of primitives, what each sample writes, where the line is driven, and the default
numbers. -/
def Obligations.PrimitiveTable : Prop :=
  (∀ (c : Cfg) (sr : Byte),
    (primLen c .reset = c.tRstl + c.tRsth ∧ primLowlen c .reset sr = c.tRstl ∧
      primSample c .reset = some (c.tRstl + c.tPds)) ∧
    (primLen c .wslot = c.tSlot + c.tRec ∧ (sr.getLsbD 0 = true → primLowlen c .wslot sr = c.tW1l) ∧
      (sr.getLsbD 0 = false → primLowlen c .wslot sr = c.tSlot) ∧ primSample c .wslot = none) ∧
    (primLen c .rslot = c.tSlot ∧ primLowlen c .rslot sr = c.tRdl ∧ primSample c .rslot = some (c.tRdl + c.tRds)) ∧
    (primLen c .wait = c.tConv ∧ primLowlen c .wait sr = 0 ∧ primSample c .wait = none)) ∧
    (∀ (o : Owt) (l : Level), o.prim = .reset → latch l o = { o with presence := decide (l = .L) }) ∧
    (∀ (o : Owt) (l : Level), o.prim = .rslot →
      (latch l o).sr.getLsbD 7 = decide (l = .H) ∧ (∀ j, j < 7 → (latch l o).sr.getLsbD j = o.sr.getLsbD (j + 1)) ∧
        latch l o = { o with sr := (latch l o).sr }) ∧
    (∀ (o : Owt) (l : Level), o.prim = .wslot ∨ o.prim = .wait → latch l o = o) ∧
    (∀ (c : Cfg) (o : Owt), o.run = .busy → (owOe c o = true ↔ o.k < primLowlen c o.prim o.sr)) ∧
    (∀ sr : Byte, (primLen Cfg.default .reset, primLowlen Cfg.default .reset sr, primSample Cfg.default .reset) =
        (960, 480, some 550) ∧
      primLen Cfg.default .wslot = 70 ∧ primLowlen Cfg.default .wslot 0x01 = 6 ∧
        primLowlen Cfg.default .wslot 0x00 = 60 ∧
      (primLen Cfg.default .rslot, primLowlen Cfg.default .rslot sr, primSample Cfg.default .rslot) =
        (60, 2, some 12) ∧
      (primLen Cfg.default .wait, primLowlen Cfg.default .wait sr) = (750000, 0))

/-- 10_state.md R26: the packing of `status`. -/
def Obligations.StatusPacksTheFlags : Prop :=
  ∀ o : Owt, (statusByte o).getLsbD 0 = decide (o.run = .busy) ∧ (statusByte o).getLsbD 1 = o.done ∧
    (statusByte o).getLsbD 2 = o.presence ∧ (statusByte o).getLsbD 3 = o.errNp ∧
    (statusByte o).getLsbD 4 = o.errIll ∧ (statusByte o).getLsbD 5 = o.tempValid ∧
    (statusByte o).getLsbD 6 = false ∧ (statusByte o).getLsbD 7 = false

/-- 10_state.md R35: the line drive. -/
def Obligations.LineDriveRule : Prop :=
  ∀ (c : Cfg) (o : Owt),
    ((ports c o).owOe = true ↔ o.run = .busy ∧ o.k < primLowlen c o.prim o.sr) ∧
    ((ports c o).owOe = true → pinMode c o = .drivenLow) ∧ ((ports c o).owOe = false → pinMode c o = .floatingInput) ∧
    (ports c o).owOut = false

/-- 70_reset_and_hazards.md R243: in every Idle state the pin floats and the line is H unless the slave pulls it. -/
def Obligations.IdleReleasesTheLine : Prop :=
  ∀ s : State, s.owt.run = .idle →
    owOe s.cfg s.owt = false ∧ pinMode s.cfg s.owt = .floatingInput ∧
      (owIn s = .H ↔ (inputNow s).devLow = false)

/-! ## Busy ticks -/

/-- 10_state.md R27, R32: a Busy tick that is neither a sample tick nor the last of its primitive only counts. -/
def Obligations.BusyTickCounts : Prop :=
  ∀ s : State, Inv s → s.owt.run = .busy → (inputNow s).rst = false → ¬AtSample s → ¬AtPrimEnd s →
    step s = .next { passTicks 1 s with owt := { s.owt with k := s.owt.k + 1 } }

/-- 40_reset_presence.md R121, 41_bit_slots.md R145: a sample tick that does not end its primitive writes the presence
flag, or shifts the bit read into `sr` at the top, counts, and changes nothing else. -/
def Obligations.SampleTickLatches : Prop :=
  ∀ s : State, Inv s → (inputNow s).rst = false → AtSample s → ¬AtPrimEnd s →
    (s.owt.prim = .reset → step s =
      .next { passTicks 1 s with owt := { s.owt with k := s.owt.k + 1, presence := (inputNow s).devLow } }) ∧
    (s.owt.prim = .rslot → step s =
      .next { passTicks 1 s with owt := { s.owt with
        k := s.owt.k + 1, sr := BitVec.ofBool (!(inputNow s).devLow) ++ s.owt.sr.extractLsb' 1 7 } })

/-- 20_memory.md R64: OWT does not drive at a sample tick, so it reads H exactly when the slave does not pull; in every
other tick the level of the line has no effect. -/
def Obligations.LineReadOnlyAtSamples : Prop :=
  (∀ s : State, CfgWf s.cfg → AtSample s →
    (s.owt.prim = .reset ∨ s.owt.prim = .rslot) ∧ owOe s.cfg s.owt = false ∧
      (owIn s = .H ↔ (inputNow s).devLow = false)) ∧
    ∀ (s : State) (d : Bool), ¬AtSample s → step (setInput { inputNow s with devLow := d } s) = step s

/-- 10_state.md R36: while Busy a presented word has no effect of any kind. -/
def Obligations.BusyIgnoresThePort : Prop :=
  ∀ (s : State) (v : Bool) (w : CmdWord), s.owt.run = .busy →
    (ports s.cfg s.owt).cmdReady = false ∧
      step (setInput { inputNow s with cmdValid := v, cmdWord := w } s) = step s

/-- 20_memory.md R78: two environments that agree on the host's inputs, and on `dev_low` at the sample ticks, give the
same states of OWT at every tick (the rule read with the host's inputs alike, the model's reading, log 16). -/
def Obligations.EnvironmentSeenOnlyAtSamples : Prop :=
  ∀ (n : Nat) (s s' : State), s.owt = s'.owt → s.cfg = s'.cfg →
    (∀ j, j < n → (inputAt s j).rst = (inputAt s' j).rst ∧ (inputAt s j).cmdValid = (inputAt s' j).cmdValid ∧
      (inputAt s j).cmdWord = (inputAt s' j).cmdWord) →
    (∀ j, j < n → ∀ u, runTicks j s = .next u → AtSample u → pullAt s j = pullAt s' j) →
    ∀ t, runTicks n s = .next t → ∃ t', runTicks n s' = .next t' ∧ t'.owt = t.owt ∧ t'.cfg = t.cfg

/-- 43_thermal_sequencer.md R191: where the end of each primitive of an RTEMP goes, `o` being the state after the
primitive's own sample and shift. -/
def Obligations.TemperatureStageTransitions : Prop :=
  ∀ (s : State) (o : Owt), Inv s → (inputNow s).rst = false → AtPrimEnd s → s.owt.cmd = .rtemp →
    o = (if s.owt.prim = .wslot then { s.owt with sr := 0#1 ++ s.owt.sr.extractLsb' 1 7 }
      else if primSample s.cfg s.owt.prim = some s.owt.k then latch (owIn s) s.owt else s.owt) →
    (s.owt.stage = .rst1 → o.presence = true → step s = .next { passTicks 1 s with owt := { o with
      stage := .skip1, prim := .wslot, sr := 0xCC, bitidx := 0, k := 0 } }) ∧
    (s.owt.stage = .rst2 → o.presence = true → step s = .next { passTicks 1 s with owt := { o with
      stage := .skip2, prim := .wslot, sr := 0xCC, bitidx := 0, k := 0 } }) ∧
    (s.owt.stage = .rst1 ∨ s.owt.stage = .rst2 → o.presence = false → step s = .next { passTicks 1 s with owt := { o with
      errNp := true, run := .idle, cmd := .none, stage := .none, prim := .none, k := 0, bitidx := 0,
      done := true } }) ∧
    (movesByte .rtemp s.owt.stage = true → s.owt.bitidx ≠ 7 → step s = .next { passTicks 1 s with owt := { o with
      bitidx := o.bitidx + 1, k := 0 } }) ∧
    (s.owt.stage = .skip1 → s.owt.bitidx = 7 → step s = .next { passTicks 1 s with owt := { o with
      stage := .conv, prim := .wslot, sr := 0x44, bitidx := 0, k := 0 } }) ∧
    (s.owt.stage = .conv → s.owt.bitidx = 7 → step s = .next { passTicks 1 s with owt := { o with
      stage := .wait, prim := .wait, bitidx := 0, k := 0 } }) ∧
    (s.owt.stage = .wait → step s = .next { passTicks 1 s with owt := { o with
      stage := .rst2, prim := .reset, k := 0 } }) ∧
    (s.owt.stage = .skip2 → s.owt.bitidx = 7 → step s = .next { passTicks 1 s with owt := { o with
      stage := .rdsp, prim := .wslot, sr := 0xBE, bitidx := 0, k := 0 } }) ∧
    (s.owt.stage = .rdsp → s.owt.bitidx = 7 → step s = .next { passTicks 1 s with owt := { o with
      stage := .lsb, prim := .rslot, bitidx := 0, k := 0 } }) ∧
    (s.owt.stage = .lsb → s.owt.bitidx = 7 → step s = .next { passTicks 1 s with owt := { o with
      lsbTmp := o.sr, stage := .msb, bitidx := 0, k := 0 } }) ∧
    (s.owt.stage = .msb → s.owt.bitidx = 7 → step s = .next { passTicks 1 s with owt := { o with
      tempRaw := o.sr ++ o.lsbTmp, tempValid := true, run := .idle, cmd := .none, stage := .none, prim := .none,
      k := 0, bitidx := 0, done := true } })

/-! ## The invariant, and rules about every step -/

/-- The reset state has the invariant (10_state.md R40). -/
def Obligations.InvariantAtReset : Prop := Inv State.reset

/-- 10_state.md R40, items 1 to 6 and 8, with what they rest on: every step keeps the invariant. -/
def Obligations.InvariantKept : Prop := ∀ s t : State, Inv s → step s = .next t → Inv t

/-- Under the invariant a step always answers a next state: no fault of the model is reached (log 7). -/
def Obligations.StepNeverStops : Prop := ∀ s : State, Inv s → ∃ t, step s = .next t

/-- 44_common_laws.md R273: the control state moves only by the transfers of the closed list. -/
def Obligations.ControlTransfersClosed : Prop :=
  ∀ s t : State, Inv s → step s = .next t →
    -- reset
    ((inputNow s).rst = true ∧ t.owt = Owt.reset) ∨
    (inputNow s).rst = false ∧
      ( -- accept
        (WordTaken s ∧ legalOp (opField (inputNow s).cmdWord) = true ∧ t.owt.run = .busy ∧
          (t.owt.cmd, t.owt.stage) = commandOf (opField (inputNow s).cmdWord) ∧
          t.owt.prim = primFor t.owt.cmd t.owt.stage ∧ t.owt.k = 0 ∧ t.owt.bitidx = 0) ∨
        -- refuse
        (WordTaken s ∧ legalOp (opField (inputNow s).cmdWord) = false ∧ t.owt.run = .idle ∧ t.owt.errIll = true) ∨
        -- hold
        (s.owt.run = .idle ∧ (inputNow s).cmdValid = false ∧ t.owt = s.owt) ∨
        -- count
        (s.owt.run = .busy ∧ s.owt.k < primLen s.cfg s.owt.prim - 1 ∧ t.owt.run = .busy ∧ t.owt.k = s.owt.k + 1 ∧
          t.owt.cmd = s.owt.cmd ∧ t.owt.stage = s.owt.stage ∧ t.owt.prim = s.owt.prim ∧
          t.owt.bitidx = s.owt.bitidx) ∨
        -- next slot
        (AtPrimEnd s ∧ movesByte s.owt.cmd s.owt.stage = true ∧ s.owt.bitidx.toNat < 7 ∧ t.owt.run = .busy ∧
          t.owt.k = 0 ∧ t.owt.bitidx.toNat = s.owt.bitidx.toNat + 1 ∧ t.owt.cmd = s.owt.cmd ∧
          t.owt.stage = s.owt.stage ∧ t.owt.prim = s.owt.prim) ∨
        -- next stage
        (AtPrimEnd s ∧ s.owt.cmd = .rtemp ∧ s.owt.stage ≠ .msb ∧
          (movesByte .rtemp s.owt.stage = true → s.owt.bitidx = 7) ∧
          (s.owt.stage = .rst1 ∨ s.owt.stage = .rst2 → t.owt.presence = true) ∧ t.owt.run = .busy ∧
          t.owt.cmd = .rtemp ∧ t.owt.stage = nextStage s.owt.stage ∧ t.owt.prim = primFor .rtemp t.owt.stage ∧
          t.owt.k = 0 ∧ t.owt.bitidx = 0) ∨
        -- abort
        (AtPrimEnd s ∧ s.owt.cmd = .rtemp ∧ (s.owt.stage = .rst1 ∨ s.owt.stage = .rst2) ∧ t.owt.presence = false ∧
          t.owt.run = .idle ∧ t.owt.errNp = true ∧ t.owt.done = true) ∨
        -- complete
        (AtPrimEnd s ∧
          (s.owt.cmd = .reset ∨ s.owt.cmd = .wbit ∨ s.owt.cmd = .rbit ∨
            (s.owt.cmd = .wbyte ∨ s.owt.cmd = .rbyte ∨ s.owt.cmd = .rtemp ∧ s.owt.stage = .msb) ∧
              s.owt.bitidx = 7) ∧
          t.owt.run = .idle ∧ t.owt.done = true))

/-- 10_state.md R23: what writes each data register, `rst` apart. -/
def Obligations.DataRegisterWriters : Prop :=
  ∀ s t : State, Inv s → (inputNow s).rst = false → step s = .next t →
    (t.owt.rdata ≠ s.owt.rdata →
      AtPrimEnd s ∧ (s.owt.cmd = .rbit ∨ s.owt.cmd = .rbyte ∧ s.owt.bitidx = 7) ∧ t.owt.run = .idle) ∧
    (t.owt.tempRaw ≠ s.owt.tempRaw →
      AtByteEnd s ∧ s.owt.cmd = .rtemp ∧ s.owt.stage = .msb ∧ t.owt.run = .idle ∧ t.owt.tempValid = true ∧
        t.owt.tempRaw = t.owt.sr ++ s.owt.lsbTmp) ∧
    (t.owt.lsbTmp ≠ s.owt.lsbTmp → AtByteEnd s ∧ s.owt.cmd = .rtemp ∧ s.owt.stage = .lsb ∧ t.owt.lsbTmp = t.owt.sr) ∧
    (t.owt.sr ≠ s.owt.sr →
      WordTaken s ∧ (t.owt.cmd = .wbit ∨ t.owt.cmd = .wbyte) ∨
        AtPrimEnd s ∧ s.owt.prim = .wslot ∨
        AtSample s ∧ s.owt.prim = .rslot ∨
        AtPrimEnd s ∧ s.owt.cmd = .rtemp ∧ t.owt.prim = .wslot ∧ t.owt.k = 0)

/-- 10_state.md R25: what sets and what clears each flag. -/
def Obligations.FlagWriters : Prop :=
  ∀ s t : State, Inv s → step s = .next t →
    (s.owt.done = false → t.owt.done = true →
      t.owt.run = .idle ∧ (AtPrimEnd s ∨ WordTaken s ∧ legalOp (opField (inputNow s).cmdWord) = false)) ∧
    (s.owt.done = true → t.owt.done = false →
      (inputNow s).rst = true ∨ WordTaken s ∧ legalOp (opField (inputNow s).cmdWord) = true) ∧
    (s.owt.presence = false → t.owt.presence = true →
      AtSample s ∧ s.owt.prim = .reset ∧ (inputNow s).devLow = true) ∧
    (s.owt.presence = true → t.owt.presence = false →
      (inputNow s).rst = true ∨ WordTaken s ∧ (t.owt.cmd = .reset ∨ t.owt.cmd = .rtemp) ∨
        AtSample s ∧ s.owt.prim = .reset ∧ (inputNow s).devLow = false) ∧
    (s.owt.errNp = false → t.owt.errNp = true →
      AtPrimEnd s ∧ s.owt.prim = .reset ∧ t.owt.presence = false ∧ (s.owt.cmd = .reset ∨ s.owt.cmd = .rtemp)) ∧
    (s.owt.errNp = true → t.owt.errNp = false → (inputNow s).rst = true ∨ WordTaken s) ∧
    (s.owt.errIll = false → t.owt.errIll = true →
      WordTaken s ∧ legalOp (opField (inputNow s).cmdWord) = false ∧ t.owt.run = .idle) ∧
    (s.owt.errIll = true → t.owt.errIll = false →
      (inputNow s).rst = true ∨ WordTaken s ∧ legalOp (opField (inputNow s).cmdWord) = true) ∧
    (s.owt.tempValid = false → t.owt.tempValid = true →
      AtByteEnd s ∧ s.owt.cmd = .rtemp ∧ s.owt.stage = .msb ∧ s.owt.presence = true) ∧
    (s.owt.tempValid = true → t.owt.tempValid = false →
      (inputNow s).rst = true ∨ WordTaken s ∧ t.owt.cmd = .rtemp)

/-- 60_exceptions.md R211: NotPresent is raised exactly at the last tick of a P_RESET whose presence sample read H, in
RESET and in the two reset stages of RTEMP. -/
def Obligations.NotPresentRaisedExactly : Prop :=
  ∀ s t : State, Inv s → (inputNow s).rst = false → s.owt.run = .busy → step s = .next t →
    (t.owt.errNp = true ↔ AtPrimEnd s ∧ s.owt.prim = .reset ∧ t.owt.presence = false) ∧
    (t.owt.errNp = true →
      s.owt.cmd = .reset ∨ s.owt.cmd = .rtemp ∧ (s.owt.stage = .rst1 ∨ s.owt.stage = .rst2)) ∧
    (AtSample s → s.owt.prim = .reset → t.owt.presence = (inputNow s).devLow)

/-- 60_exceptions.md R212: IllegalCommand is raised exactly in a tick in which a word with an illegal `op` is presented
to an Idle OWT. -/
def Obligations.IllegalCommandRaisedExactly : Prop :=
  ∀ s t : State, Inv s → (inputNow s).rst = false → s.owt.errIll = false → step s = .next t →
    (t.owt.errIll = true ↔ s.owt.run = .idle ∧ (inputNow s).cmdValid = true ∧
      (opField (inputNow s).cmdWord = 0x0 ∨ 0x7 ≤ (opField (inputNow s).cmdWord).toNat))

/-- 60_exceptions.md R218: a step after which an error flag is up leaves OWT in the Idle control state, the line
released, and ready to take any command. -/
def Obligations.ErrorsLeaveIdle : Prop :=
  ∀ s t : State, Inv s → step s = .next t → t.owt.errNp = true ∨ t.owt.errIll = true →
    (t.owt.run = .idle ∧ t.owt.cmd = .none ∧ t.owt.stage = .none ∧ t.owt.prim = .none ∧ t.owt.k = 0 ∧
      t.owt.bitidx = 0) ∧
    owOe t.cfg t.owt = false ∧
    ((inputNow t).rst = false → (inputNow t).cmdValid = true →
      legalOp (opField (inputNow t).cmdWord) = true →
        ∃ u, step t = .next u ∧ u.owt.run = .busy ∧ u.owt.errNp = false ∧ u.owt.errIll = false)

/-- 70_reset_and_hazards.md R242: a reset in the middle of a command drops it with no `done`, no error flag and no
result, and releases the line from the next tick. -/
def Obligations.ResetCutsACommand : Prop :=
  ∀ s : State, Inv s → s.owt.run = .busy → (inputNow s).rst = true →
    ∃ t, step s = .next t ∧ t.owt.run = .idle ∧ t.owt.done = false ∧ t.owt.errNp = false ∧ t.owt.errIll = false ∧
      t.owt.tempValid = false ∧ t.owt.rdata = 0 ∧ t.owt.tempRaw = 0 ∧ owOe t.cfg t.owt = false

/-! ## Whole commands -/

/-- 40_reset_presence.md R124, R125: the whole RESET command, whatever the slave does (`err_ill` cleared by
its accept, log 11). -/
def Obligations.ResetCommandRun : Prop :=
  ∀ (s : State) (w : CmdWord), CfgWf s.cfg → s.owt.run = .idle → opField w = 0x1 → Presents s w →
    NoResetFor s (lReset s.cfg) →
    ∀ p : Bool, p = pullAt s (1 + s.cfg.tRstl + s.cfg.tPds) →
      runTicks (1 + lReset s.cfg) s = .next { passTicks (1 + lReset s.cfg) s with owt := { s.owt with
        run := .idle, cmd := .none, stage := .none, prim := .none, k := 0, bitidx := 0,
        presence := p, errNp := !p, errIll := false, done := true } }

/-- 41_bit_slots.md R142, R149: the whole WBIT command (the error flags cleared by its accept, log 11). -/
def Obligations.WriteBitRun : Prop :=
  ∀ (s : State) (w : CmdWord), CfgWf s.cfg → s.owt.run = .idle → opField w = 0x2 → Presents s w →
    NoResetFor s (lWslot s.cfg) →
      runTicks (1 + lWslot s.cfg) s = .next { passTicks (1 + lWslot s.cfg) s with owt := { s.owt with
        run := .idle, cmd := .none, stage := .none, prim := .none, k := 0, bitidx := 0,
        sr := 0x00, errNp := false, errIll := false, done := true } }

/-- 41_bit_slots.md R147, R149: the whole RBIT command (the error flags cleared by its accept, log 11). -/
def Obligations.ReadBitRun : Prop :=
  ∀ (s : State) (w : CmdWord), CfgWf s.cfg → s.owt.run = .idle → opField w = 0x3 → Presents s w →
    NoResetFor s (lRslot s.cfg) →
    ∀ v : BitVec 1, v = BitVec.ofBool (!pullAt s (1 + s.cfg.tRdl + s.cfg.tRds)) →
      runTicks (1 + lRslot s.cfg) s = .next { passTicks (1 + lRslot s.cfg) s with owt := { s.owt with
        run := .idle, cmd := .none, stage := .none, prim := .none, k := 0, bitidx := 0,
        sr := v ++ s.owt.sr.extractLsb' 1 7, rdata := v.setWidth 8, errNp := false, errIll := false,
        done := true } }

/-- 42_byte_serialization.md R162, R166: the whole WBYTE command, under any of its names (the error flags
cleared by its accept, log 11). -/
def Obligations.WriteByteRun : Prop :=
  ∀ (s : State) (w : CmdWord), CfgWf s.cfg → s.owt.run = .idle → opField w = 0x4 → Presents s w →
    NoResetFor s (8 * lWslot s.cfg) →
      runTicks (1 + 8 * lWslot s.cfg) s = .next { passTicks (1 + 8 * lWslot s.cfg) s with owt := { s.owt with
        run := .idle, cmd := .none, stage := .none, prim := .none, k := 0, bitidx := 0,
        sr := 0x00, errNp := false, errIll := false, done := true } }

/-- 42_byte_serialization.md R165, R166: the whole RBYTE command; bit `i` of the result is the bit of slot `i`
(the error flags cleared by its accept, log 11). -/
def Obligations.ReadByteRun : Prop :=
  ∀ (s : State) (w : CmdWord), CfgWf s.cfg → s.owt.run = .idle → opField w = 0x5 → Presents s w →
    NoResetFor s (8 * lRslot s.cfg) →
    ∃ v : Byte,
      (∀ i, i < 8 → v.getLsbD i = !pullAt s (1 + s.cfg.tRdl + s.cfg.tRds + i * lRslot s.cfg)) ∧
      runTicks (1 + 8 * lRslot s.cfg) s = .next { passTicks (1 + 8 * lRslot s.cfg) s with owt := { s.owt with
        run := .idle, cmd := .none, stage := .none, prim := .none, k := 0, bitidx := 0,
        sr := v, rdata := v, errNp := false, errIll := false, done := true } }

/-- 43_thermal_sequencer.md R202 (and R190): the whole RTEMP command in its three outcomes, `p1` and `p2` being the
slave's answer at the two presence samples. -/
def Obligations.TemperatureRun : Prop :=
  ∀ (s : State) (w : CmdWord) (p1 p2 : Bool) (n : Nat), CfgWf s.cfg → s.owt.run = .idle → opField w = 0x6 →
    Presents s w →
    p1 = pullAt s (1 + s.cfg.tRstl + s.cfg.tPds) →
    p2 = pullAt s (1 + lReset s.cfg + 16 * lWslot s.cfg + s.cfg.tConv + s.cfg.tRstl + s.cfg.tPds) →
    n = busyTicks s.cfg .rtemp p1 p2 → NoResetFor s n →
      (p1 = false → runTicks (1 + n) s = .next { passTicks (1 + n) s with owt := { s.owt with
        run := .idle, cmd := .none, stage := .none, prim := .none, k := 0, bitidx := 0,
        presence := false, errNp := true, errIll := false, tempValid := false, done := true } }) ∧
      (p1 = true → p2 = false → runTicks (1 + n) s = .next { passTicks (1 + n) s with owt := { s.owt with
        run := .idle, cmd := .none, stage := .none, prim := .none, k := 0, bitidx := 0, sr := 0x00,
        presence := false, errNp := true, errIll := false, tempValid := false, done := true } }) ∧
      (p1 = true → p2 = true → ∃ lsb msb : Byte,
        (∀ i, i < 8 → lsb.getLsbD i = !pullAt s (1 + 2 * lReset s.cfg + 32 * lWslot s.cfg + s.cfg.tConv +
          s.cfg.tRdl + s.cfg.tRds + i * lRslot s.cfg)) ∧
        (∀ i, i < 8 → msb.getLsbD i = !pullAt s (1 + 2 * lReset s.cfg + 32 * lWslot s.cfg + s.cfg.tConv +
          8 * lRslot s.cfg + s.cfg.tRdl + s.cfg.tRds + i * lRslot s.cfg)) ∧
        runTicks (1 + n) s = .next { passTicks (1 + n) s with owt := { s.owt with
          run := .idle, cmd := .none, stage := .none, prim := .none, k := 0, bitidx := 0, sr := msb, lsbTmp := lsb,
          tempRaw := msb ++ lsb, presence := true, errNp := false, errIll := false, tempValid := true,
          done := true } })

/-- 30_encoding.md R104 with the frames R96 to R99, and 70_reset_and_hazards.md R255: every command drives exactly the
frames of its primitives on the line, is Busy for exactly its ticks, and is then Idle with `done`; and the default
counts of R255. -/
def Obligations.CommandsDriveTheirFrames : Prop :=
  (busyTicks Cfg.default .reset true true = 960 ∧ (∀ b, busyTicks Cfg.default (.wbit b) true true = 70) ∧
    busyTicks Cfg.default .rbit true true = 60 ∧ (∀ v, busyTicks Cfg.default (.wbyte v) true true = 560) ∧
    busyTicks Cfg.default .rbyte true true = 480 ∧ busyTicks Cfg.default .rtemp true true = 755120 ∧
    (∀ p2, busyTicks Cfg.default .rtemp false p2 = 960) ∧ busyTicks Cfg.default .rtemp true false = 753040) ∧
  ∀ (s : State) (w : CmdWord) (i : Instr) (p1 p2 : Bool), CfgWf s.cfg → s.owt.run = .idle → Presents s w →
    decode (.cmd w) = .ok i →
    p1 = pullAt s (1 + s.cfg.tRstl + s.cfg.tPds) →
    p2 = pullAt s (1 + lReset s.cfg + 16 * lWslot s.cfg + s.cfg.tConv + s.cfg.tRstl + s.cfg.tPds) →
    NoResetFor s (busyTicks s.cfg i p1 p2) →
      driveTrace (1 + busyTicks s.cfg i p1 p2) s = false :: (actions i p1 p2).flatMap (frame s.cfg) ∧
      (∀ n, 1 ≤ n → n ≤ busyTicks s.cfg i p1 p2 → ∃ t, runTicks n s = .next t ∧ t.owt.run = .busy) ∧
      ∃ t, runTicks (1 + busyTicks s.cfg i p1 p2) s = .next t ∧ t.owt.run = .idle ∧ t.owt.done = true

/-- 44_common_laws.md R274: from any reachable form OWT is Idle again within the length of a successful RTEMP, whatever
the line and the host's port do, if no reset comes. -/
def Obligations.EveryCommandEnds : Prop :=
  ∀ s : State, Inv s → s.owt.run = .busy →
    (∀ j, j < busyTicks s.cfg .rtemp true true → (inputAt s j).rst = false) →
    ∃ n t, n ≤ busyTicks s.cfg .rtemp true true ∧ runTicks n s = .next t ∧ t.owt.run = .idle ∧ t.owt.done = true

/-- 42_byte_serialization.md R167: WBYTE x and then, after any number `g` of idle ticks, RBYTE in a loopback environment
read x back. The level is taken at tick `m i` of write slot `i`, the slave not pulling there, and presented at the sample
of read slot `i`. -/
def Obligations.LoopbackReadsBackTheByte : Prop :=
  ∀ (s t : State) (x : Byte) (w : CmdWord) (m : Nat → Nat) (g : Nat), CfgWf s.cfg → s.owt.run = .idle →
    Presents s (0x4#4 ++ x) → NoResetFor s (8 * lWslot s.cfg + g) →
    (∀ j, j < g → (inputAt s (1 + 8 * lWslot s.cfg + j)).cmdValid = false) →
    runTicks (1 + 8 * lWslot s.cfg + g) s = .next t →
    opField w = 0x5 → Presents t w → NoResetFor t (8 * lRslot s.cfg) →
    (∀ i, i < 8 → s.cfg.tW1l ≤ m i ∧ m i < s.cfg.tSlot) →
    (∀ i, i < 8 → ∀ u, runTicks (1 + i * lWslot s.cfg + m i) s = .next u →
      (inputNow u).devLow = false ∧
        pullAt t (1 + i * lRslot s.cfg + s.cfg.tRdl + s.cfg.tRds) = decide (owIn u = .L)) →
      ∃ r, runTicks (1 + 8 * lRslot s.cfg) t = .next r ∧ r.owt.rdata = x ∧ r.owt.sr = x ∧ r.owt.done = true

/-! ## The reading -/

/-- 43_thermal_sequencer.md R195, R196: the reading is the two's-complement value of `(msb << 8) | lsb` in sixteenths;
its range; and it is an integer of fewer than 24 bits over a power of two, so exact in binary32. -/
def Obligations.ReadingIsSignedSixteenths : Prop :=
  ∀ msb lsb : Byte,
    (composeReading msb lsb).toNat = msb.toNat * 256 + lsb.toNat ∧
    readingSixteenths (composeReading msb lsb) =
      (if msb.toNat < 128 then (msb.toNat * 256 + lsb.toNat : Int) else (msb.toNat * 256 + lsb.toNat : Int) - 65536) ∧
    readingCelsius (composeReading msb lsb) = (readingSixteenths (composeReading msb lsb) : ℚ) / 16 ∧
    -2048 ≤ readingCelsius (composeReading msb lsb) ∧ readingCelsius (composeReading msb lsb) ≤ 2048 - 1 / 16 ∧
    ∃ n : Int, |n| < 2 ^ 24 ∧ readingCelsius (composeReading msb lsb) * 2 ^ 4 = n
end

