-- ==== Sys2Proof/Laws/State.lean ====
section
/-! SUPPORT. One lemma per field per update: what each update of the state does to each field. -/

namespace Sys2Proof.Machine

section
variable (o o' : Owt) (s : State) (n : Nat) (i : TickIn) (c : Cmd) (p : Prim) (st : Stage) (b : Byte)

@[simp] theorem setOwt_owt : (setOwt o s).owt = o := rfl
@[simp] theorem setOwt_cfg : (setOwt o s).cfg = s.cfg := rfl
@[simp] theorem setOwt_inputs : (setOwt o s).inputs = s.inputs := rfl
@[simp] theorem setOwt_tick : (setOwt o s).tick = s.tick := rfl

@[simp] theorem passTicks_owt : (passTicks n s).owt = s.owt := rfl
@[simp] theorem passTicks_cfg : (passTicks n s).cfg = s.cfg := rfl
@[simp] theorem passTicks_inputs : (passTicks n s).inputs = s.inputs.drop n := rfl
@[simp] theorem passTicks_tick : (passTicks n s).tick = s.tick + n := rfl

@[simp] theorem setInput_owt : (setInput i s).owt = s.owt := rfl
@[simp] theorem setInput_cfg : (setInput i s).cfg = s.cfg := rfl
@[simp] theorem setInput_inputs : (setInput i s).inputs = i :: s.inputs.tail := rfl
@[simp] theorem setInput_tick : (setInput i s).tick = s.tick := rfl

@[simp] theorem clearFlags_run : (clearFlags o).run = o.run := rfl
@[simp] theorem clearFlags_cmd : (clearFlags o).cmd = o.cmd := rfl
@[simp] theorem clearFlags_stage : (clearFlags o).stage = o.stage := rfl
@[simp] theorem clearFlags_prim : (clearFlags o).prim = o.prim := rfl
@[simp] theorem clearFlags_k : (clearFlags o).k = o.k := rfl
@[simp] theorem clearFlags_bitidx : (clearFlags o).bitidx = o.bitidx := rfl
@[simp] theorem clearFlags_sr : (clearFlags o).sr = o.sr := rfl
@[simp] theorem clearFlags_lsbTmp : (clearFlags o).lsbTmp = o.lsbTmp := rfl
@[simp] theorem clearFlags_rdata : (clearFlags o).rdata = o.rdata := rfl
@[simp] theorem clearFlags_tempRaw : (clearFlags o).tempRaw = o.tempRaw := rfl
@[simp] theorem clearFlags_done : (clearFlags o).done = false := rfl
@[simp] theorem clearFlags_presence : (clearFlags o).presence = o.presence := rfl
@[simp] theorem clearFlags_errNp : (clearFlags o).errNp = false := rfl
@[simp] theorem clearFlags_errIll : (clearFlags o).errIll = false := rfl
@[simp] theorem clearFlags_tempValid : (clearFlags o).tempValid = o.tempValid := rfl

@[simp] theorem setErrNp_run : (setErrNp o).run = o.run := rfl
@[simp] theorem setErrNp_cmd : (setErrNp o).cmd = o.cmd := rfl
@[simp] theorem setErrNp_stage : (setErrNp o).stage = o.stage := rfl
@[simp] theorem setErrNp_prim : (setErrNp o).prim = o.prim := rfl
@[simp] theorem setErrNp_k : (setErrNp o).k = o.k := rfl
@[simp] theorem setErrNp_bitidx : (setErrNp o).bitidx = o.bitidx := rfl
@[simp] theorem setErrNp_sr : (setErrNp o).sr = o.sr := rfl
@[simp] theorem setErrNp_lsbTmp : (setErrNp o).lsbTmp = o.lsbTmp := rfl
@[simp] theorem setErrNp_rdata : (setErrNp o).rdata = o.rdata := rfl
@[simp] theorem setErrNp_tempRaw : (setErrNp o).tempRaw = o.tempRaw := rfl
@[simp] theorem setErrNp_done : (setErrNp o).done = o.done := rfl
@[simp] theorem setErrNp_presence : (setErrNp o).presence = o.presence := rfl
@[simp] theorem setErrNp_errNp : (setErrNp o).errNp = !o.presence := rfl
@[simp] theorem setErrNp_errIll : (setErrNp o).errIll = o.errIll := rfl
@[simp] theorem setErrNp_tempValid : (setErrNp o).tempValid = o.tempValid := rfl

@[simp] theorem clearPresence_run : (clearPresence o).run = o.run := rfl
@[simp] theorem clearPresence_cmd : (clearPresence o).cmd = o.cmd := rfl
@[simp] theorem clearPresence_stage : (clearPresence o).stage = o.stage := rfl
@[simp] theorem clearPresence_prim : (clearPresence o).prim = o.prim := rfl
@[simp] theorem clearPresence_k : (clearPresence o).k = o.k := rfl
@[simp] theorem clearPresence_bitidx : (clearPresence o).bitidx = o.bitidx := rfl
@[simp] theorem clearPresence_sr : (clearPresence o).sr = o.sr := rfl
@[simp] theorem clearPresence_lsbTmp : (clearPresence o).lsbTmp = o.lsbTmp := rfl
@[simp] theorem clearPresence_rdata : (clearPresence o).rdata = o.rdata := rfl
@[simp] theorem clearPresence_tempRaw : (clearPresence o).tempRaw = o.tempRaw := rfl
@[simp] theorem clearPresence_done : (clearPresence o).done = o.done := rfl
@[simp] theorem clearPresence_presence : (clearPresence o).presence = false := rfl
@[simp] theorem clearPresence_errNp : (clearPresence o).errNp = o.errNp := rfl
@[simp] theorem clearPresence_errIll : (clearPresence o).errIll = o.errIll := rfl
@[simp] theorem clearPresence_tempValid : (clearPresence o).tempValid = o.tempValid := rfl

@[simp] theorem clearTempValid_run : (clearTempValid o).run = o.run := rfl
@[simp] theorem clearTempValid_cmd : (clearTempValid o).cmd = o.cmd := rfl
@[simp] theorem clearTempValid_stage : (clearTempValid o).stage = o.stage := rfl
@[simp] theorem clearTempValid_prim : (clearTempValid o).prim = o.prim := rfl
@[simp] theorem clearTempValid_k : (clearTempValid o).k = o.k := rfl
@[simp] theorem clearTempValid_bitidx : (clearTempValid o).bitidx = o.bitidx := rfl
@[simp] theorem clearTempValid_sr : (clearTempValid o).sr = o.sr := rfl
@[simp] theorem clearTempValid_lsbTmp : (clearTempValid o).lsbTmp = o.lsbTmp := rfl
@[simp] theorem clearTempValid_rdata : (clearTempValid o).rdata = o.rdata := rfl
@[simp] theorem clearTempValid_tempRaw : (clearTempValid o).tempRaw = o.tempRaw := rfl
@[simp] theorem clearTempValid_done : (clearTempValid o).done = o.done := rfl
@[simp] theorem clearTempValid_presence : (clearTempValid o).presence = o.presence := rfl
@[simp] theorem clearTempValid_errNp : (clearTempValid o).errNp = o.errNp := rfl
@[simp] theorem clearTempValid_errIll : (clearTempValid o).errIll = o.errIll := rfl
@[simp] theorem clearTempValid_tempValid : (clearTempValid o).tempValid = false := rfl

@[simp] theorem beginCommand_run : (beginCommand c p o).run = .busy := rfl
@[simp] theorem beginCommand_cmd : (beginCommand c p o).cmd = c := rfl
@[simp] theorem beginCommand_stage : (beginCommand c p o).stage = .none := rfl
@[simp] theorem beginCommand_prim : (beginCommand c p o).prim = p := rfl
@[simp] theorem beginCommand_k : (beginCommand c p o).k = 0 := rfl
@[simp] theorem beginCommand_bitidx : (beginCommand c p o).bitidx = 0 := rfl
@[simp] theorem beginCommand_sr : (beginCommand c p o).sr = o.sr := rfl
@[simp] theorem beginCommand_lsbTmp : (beginCommand c p o).lsbTmp = o.lsbTmp := rfl
@[simp] theorem beginCommand_rdata : (beginCommand c p o).rdata = o.rdata := rfl
@[simp] theorem beginCommand_tempRaw : (beginCommand c p o).tempRaw = o.tempRaw := rfl
@[simp] theorem beginCommand_done : (beginCommand c p o).done = false := rfl
@[simp] theorem beginCommand_presence : (beginCommand c p o).presence = o.presence := rfl
@[simp] theorem beginCommand_errNp : (beginCommand c p o).errNp = false := rfl
@[simp] theorem beginCommand_errIll : (beginCommand c p o).errIll = false := rfl
@[simp] theorem beginCommand_tempValid : (beginCommand c p o).tempValid = o.tempValid := rfl

@[simp] theorem complete_run : (complete o).run = .idle := rfl
@[simp] theorem complete_cmd : (complete o).cmd = .none := rfl
@[simp] theorem complete_stage : (complete o).stage = .none := rfl
@[simp] theorem complete_prim : (complete o).prim = .none := rfl
@[simp] theorem complete_k : (complete o).k = 0 := rfl
@[simp] theorem complete_bitidx : (complete o).bitidx = 0 := rfl
@[simp] theorem complete_sr : (complete o).sr = o.sr := rfl
@[simp] theorem complete_lsbTmp : (complete o).lsbTmp = o.lsbTmp := rfl
@[simp] theorem complete_rdata : (complete o).rdata = o.rdata := rfl
@[simp] theorem complete_tempRaw : (complete o).tempRaw = o.tempRaw := rfl
@[simp] theorem complete_done : (complete o).done = true := rfl
@[simp] theorem complete_presence : (complete o).presence = o.presence := rfl
@[simp] theorem complete_errNp : (complete o).errNp = o.errNp := rfl
@[simp] theorem complete_errIll : (complete o).errIll = o.errIll := rfl
@[simp] theorem complete_tempValid : (complete o).tempValid = o.tempValid := rfl

@[simp] theorem shiftSlot_run : (shiftSlot o).run = o.run := rfl
@[simp] theorem shiftSlot_cmd : (shiftSlot o).cmd = o.cmd := rfl
@[simp] theorem shiftSlot_stage : (shiftSlot o).stage = o.stage := rfl
@[simp] theorem shiftSlot_prim : (shiftSlot o).prim = o.prim := rfl
@[simp] theorem shiftSlot_k : (shiftSlot o).k = o.k := rfl
@[simp] theorem shiftSlot_bitidx : (shiftSlot o).bitidx = o.bitidx := rfl
@[simp] theorem shiftSlot_sr : (shiftSlot o).sr = shiftOut o.sr := rfl
@[simp] theorem shiftSlot_lsbTmp : (shiftSlot o).lsbTmp = o.lsbTmp := rfl
@[simp] theorem shiftSlot_rdata : (shiftSlot o).rdata = o.rdata := rfl
@[simp] theorem shiftSlot_tempRaw : (shiftSlot o).tempRaw = o.tempRaw := rfl
@[simp] theorem shiftSlot_done : (shiftSlot o).done = o.done := rfl
@[simp] theorem shiftSlot_presence : (shiftSlot o).presence = o.presence := rfl
@[simp] theorem shiftSlot_errNp : (shiftSlot o).errNp = o.errNp := rfl
@[simp] theorem shiftSlot_errIll : (shiftSlot o).errIll = o.errIll := rfl
@[simp] theorem shiftSlot_tempValid : (shiftSlot o).tempValid = o.tempValid := rfl

@[simp] theorem nextSlot_run : (nextSlot o).run = o.run := rfl
@[simp] theorem nextSlot_cmd : (nextSlot o).cmd = o.cmd := rfl
@[simp] theorem nextSlot_stage : (nextSlot o).stage = o.stage := rfl
@[simp] theorem nextSlot_prim : (nextSlot o).prim = o.prim := rfl
@[simp] theorem nextSlot_k : (nextSlot o).k = 0 := rfl
@[simp] theorem nextSlot_bitidx : (nextSlot o).bitidx = o.bitidx + 1 := rfl
@[simp] theorem nextSlot_sr : (nextSlot o).sr = o.sr := rfl
@[simp] theorem nextSlot_lsbTmp : (nextSlot o).lsbTmp = o.lsbTmp := rfl
@[simp] theorem nextSlot_rdata : (nextSlot o).rdata = o.rdata := rfl
@[simp] theorem nextSlot_tempRaw : (nextSlot o).tempRaw = o.tempRaw := rfl
@[simp] theorem nextSlot_done : (nextSlot o).done = o.done := rfl
@[simp] theorem nextSlot_presence : (nextSlot o).presence = o.presence := rfl
@[simp] theorem nextSlot_errNp : (nextSlot o).errNp = o.errNp := rfl
@[simp] theorem nextSlot_errIll : (nextSlot o).errIll = o.errIll := rfl
@[simp] theorem nextSlot_tempValid : (nextSlot o).tempValid = o.tempValid := rfl

@[simp] theorem enterStage_run : (enterStage st p o).run = o.run := rfl
@[simp] theorem enterStage_cmd : (enterStage st p o).cmd = o.cmd := rfl
@[simp] theorem enterStage_stage : (enterStage st p o).stage = st := rfl
@[simp] theorem enterStage_prim : (enterStage st p o).prim = p := rfl
@[simp] theorem enterStage_k : (enterStage st p o).k = 0 := rfl
@[simp] theorem enterStage_bitidx : (enterStage st p o).bitidx = 0 := rfl
@[simp] theorem enterStage_sr : (enterStage st p o).sr = o.sr := rfl
@[simp] theorem enterStage_lsbTmp : (enterStage st p o).lsbTmp = o.lsbTmp := rfl
@[simp] theorem enterStage_rdata : (enterStage st p o).rdata = o.rdata := rfl
@[simp] theorem enterStage_tempRaw : (enterStage st p o).tempRaw = o.tempRaw := rfl
@[simp] theorem enterStage_done : (enterStage st p o).done = o.done := rfl
@[simp] theorem enterStage_presence : (enterStage st p o).presence = o.presence := rfl
@[simp] theorem enterStage_errNp : (enterStage st p o).errNp = o.errNp := rfl
@[simp] theorem enterStage_errIll : (enterStage st p o).errIll = o.errIll := rfl
@[simp] theorem enterStage_tempValid : (enterStage st p o).tempValid = o.tempValid := rfl

@[simp] theorem startWbyte_run : (startWbyte st b o).run = o.run := rfl
@[simp] theorem startWbyte_cmd : (startWbyte st b o).cmd = o.cmd := rfl
@[simp] theorem startWbyte_stage : (startWbyte st b o).stage = st := rfl
@[simp] theorem startWbyte_prim : (startWbyte st b o).prim = .wslot := rfl
@[simp] theorem startWbyte_k : (startWbyte st b o).k = 0 := rfl
@[simp] theorem startWbyte_bitidx : (startWbyte st b o).bitidx = 0 := rfl
@[simp] theorem startWbyte_sr : (startWbyte st b o).sr = b := rfl
@[simp] theorem startWbyte_lsbTmp : (startWbyte st b o).lsbTmp = o.lsbTmp := rfl
@[simp] theorem startWbyte_rdata : (startWbyte st b o).rdata = o.rdata := rfl
@[simp] theorem startWbyte_tempRaw : (startWbyte st b o).tempRaw = o.tempRaw := rfl
@[simp] theorem startWbyte_done : (startWbyte st b o).done = o.done := rfl
@[simp] theorem startWbyte_presence : (startWbyte st b o).presence = o.presence := rfl
@[simp] theorem startWbyte_errNp : (startWbyte st b o).errNp = o.errNp := rfl
@[simp] theorem startWbyte_errIll : (startWbyte st b o).errIll = o.errIll := rfl
@[simp] theorem startWbyte_tempValid : (startWbyte st b o).tempValid = o.tempValid := rfl

@[simp] theorem npAbort_run : (npAbort o).run = .idle := rfl
@[simp] theorem npAbort_cmd : (npAbort o).cmd = .none := rfl
@[simp] theorem npAbort_stage : (npAbort o).stage = .none := rfl
@[simp] theorem npAbort_prim : (npAbort o).prim = .none := rfl
@[simp] theorem npAbort_k : (npAbort o).k = 0 := rfl
@[simp] theorem npAbort_bitidx : (npAbort o).bitidx = 0 := rfl
@[simp] theorem npAbort_sr : (npAbort o).sr = o.sr := rfl
@[simp] theorem npAbort_lsbTmp : (npAbort o).lsbTmp = o.lsbTmp := rfl
@[simp] theorem npAbort_rdata : (npAbort o).rdata = o.rdata := rfl
@[simp] theorem npAbort_tempRaw : (npAbort o).tempRaw = o.tempRaw := rfl
@[simp] theorem npAbort_done : (npAbort o).done = true := rfl
@[simp] theorem npAbort_presence : (npAbort o).presence = o.presence := rfl
@[simp] theorem npAbort_errNp : (npAbort o).errNp = true := rfl
@[simp] theorem npAbort_errIll : (npAbort o).errIll = o.errIll := rfl
@[simp] theorem npAbort_tempValid : (npAbort o).tempValid = o.tempValid := rfl

@[simp] theorem illegalCommand_run : (illegalCommand o).run = o.run := rfl
@[simp] theorem illegalCommand_cmd : (illegalCommand o).cmd = o.cmd := rfl
@[simp] theorem illegalCommand_stage : (illegalCommand o).stage = o.stage := rfl
@[simp] theorem illegalCommand_prim : (illegalCommand o).prim = o.prim := rfl
@[simp] theorem illegalCommand_k : (illegalCommand o).k = o.k := rfl
@[simp] theorem illegalCommand_bitidx : (illegalCommand o).bitidx = o.bitidx := rfl
@[simp] theorem illegalCommand_sr : (illegalCommand o).sr = o.sr := rfl
@[simp] theorem illegalCommand_lsbTmp : (illegalCommand o).lsbTmp = o.lsbTmp := rfl
@[simp] theorem illegalCommand_rdata : (illegalCommand o).rdata = o.rdata := rfl
@[simp] theorem illegalCommand_tempRaw : (illegalCommand o).tempRaw = o.tempRaw := rfl
@[simp] theorem illegalCommand_done : (illegalCommand o).done = true := rfl
@[simp] theorem illegalCommand_presence : (illegalCommand o).presence = o.presence := rfl
@[simp] theorem illegalCommand_errNp : (illegalCommand o).errNp = false := rfl
@[simp] theorem illegalCommand_errIll : (illegalCommand o).errIll = true := rfl
@[simp] theorem illegalCommand_tempValid : (illegalCommand o).tempValid = o.tempValid := rfl

@[simp] theorem lsbDone_run : (lsbDone o).run = o.run := rfl
@[simp] theorem lsbDone_cmd : (lsbDone o).cmd = o.cmd := rfl
@[simp] theorem lsbDone_stage : (lsbDone o).stage = .msb := rfl
@[simp] theorem lsbDone_prim : (lsbDone o).prim = o.prim := rfl
@[simp] theorem lsbDone_k : (lsbDone o).k = 0 := rfl
@[simp] theorem lsbDone_bitidx : (lsbDone o).bitidx = 0 := rfl
@[simp] theorem lsbDone_sr : (lsbDone o).sr = o.sr := rfl
@[simp] theorem lsbDone_lsbTmp : (lsbDone o).lsbTmp = o.sr := rfl
@[simp] theorem lsbDone_rdata : (lsbDone o).rdata = o.rdata := rfl
@[simp] theorem lsbDone_tempRaw : (lsbDone o).tempRaw = o.tempRaw := rfl
@[simp] theorem lsbDone_done : (lsbDone o).done = o.done := rfl
@[simp] theorem lsbDone_presence : (lsbDone o).presence = o.presence := rfl
@[simp] theorem lsbDone_errNp : (lsbDone o).errNp = o.errNp := rfl
@[simp] theorem lsbDone_errIll : (lsbDone o).errIll = o.errIll := rfl
@[simp] theorem lsbDone_tempValid : (lsbDone o).tempValid = o.tempValid := rfl

@[simp] theorem msbDone_run : (msbDone o).run = .idle := rfl
@[simp] theorem msbDone_cmd : (msbDone o).cmd = .none := rfl
@[simp] theorem msbDone_stage : (msbDone o).stage = .none := rfl
@[simp] theorem msbDone_prim : (msbDone o).prim = .none := rfl
@[simp] theorem msbDone_k : (msbDone o).k = 0 := rfl
@[simp] theorem msbDone_bitidx : (msbDone o).bitidx = 0 := rfl
@[simp] theorem msbDone_sr : (msbDone o).sr = o.sr := rfl
@[simp] theorem msbDone_lsbTmp : (msbDone o).lsbTmp = o.lsbTmp := rfl
@[simp] theorem msbDone_rdata : (msbDone o).rdata = o.rdata := rfl
@[simp] theorem msbDone_tempRaw : (msbDone o).tempRaw = composeReading o.sr o.lsbTmp := rfl
@[simp] theorem msbDone_done : (msbDone o).done = true := rfl
@[simp] theorem msbDone_presence : (msbDone o).presence = o.presence := rfl
@[simp] theorem msbDone_errNp : (msbDone o).errNp = o.errNp := rfl
@[simp] theorem msbDone_errIll : (msbDone o).errIll = o.errIll := rfl
@[simp] theorem msbDone_tempValid : (msbDone o).tempValid = true := rfl

@[simp] theorem setK_run : (setK n o).run = o.run := rfl
@[simp] theorem setK_cmd : (setK n o).cmd = o.cmd := rfl
@[simp] theorem setK_stage : (setK n o).stage = o.stage := rfl
@[simp] theorem setK_prim : (setK n o).prim = o.prim := rfl
@[simp] theorem setK_k : (setK n o).k = n := rfl
@[simp] theorem setK_bitidx : (setK n o).bitidx = o.bitidx := rfl
@[simp] theorem setK_sr : (setK n o).sr = o.sr := rfl
@[simp] theorem setK_lsbTmp : (setK n o).lsbTmp = o.lsbTmp := rfl
@[simp] theorem setK_rdata : (setK n o).rdata = o.rdata := rfl
@[simp] theorem setK_tempRaw : (setK n o).tempRaw = o.tempRaw := rfl
@[simp] theorem setK_done : (setK n o).done = o.done := rfl
@[simp] theorem setK_presence : (setK n o).presence = o.presence := rfl
@[simp] theorem setK_errNp : (setK n o).errNp = o.errNp := rfl
@[simp] theorem setK_errIll : (setK n o).errIll = o.errIll := rfl
@[simp] theorem setK_tempValid : (setK n o).tempValid = o.tempValid := rfl

end

end Sys2Proof.Machine
end

