-- ==== Sys2Proof/Laws/Step.lean ====
section
/-! SUPPORT. What a meaning and a step can do, said once. -/

namespace Sys2Proof.Machine

/-! ## The inputs of the ticks -/

@[simp] theorem inputAt_setOwt (o : Owt) (s : State) (j : Nat) : inputAt (setOwt o s) j = inputAt s j := rfl

@[simp] theorem inputNow_setOwt (o : Owt) (s : State) : inputNow (setOwt o s) = inputNow s := rfl

@[simp] theorem inputAt_passTicks (n : Nat) (s : State) (j : Nat) : inputAt (passTicks n s) j = inputAt s (n + j) := by
  simp [inputAt, Nat.add_assoc]

@[simp] theorem inputNow_passTicks (n : Nat) (s : State) : inputNow (passTicks n s) = inputAt s n := by
  simp [inputNow]

@[simp] theorem inputNow_setInput (i : TickIn) (s : State) : inputNow (setInput i s) = i := rfl

@[simp] theorem passTicks_zero (s : State) : passTicks 0 s = s := rfl

theorem passTicks_add (m n : Nat) (s : State) : passTicks n (passTicks m s) = passTicks (m + n) s := by
  simp [passTicks, Nat.add_assoc]

@[simp] theorem passTicks_setOwt (n : Nat) (o : Owt) (s : State) : passTicks n (setOwt o s) = setOwt o (passTicks n s) := rfl

@[simp] theorem setOwt_setOwt (o o' : Owt) (s : State) : setOwt o (setOwt o' s) = setOwt o s := rfl

@[simp] theorem setOwt_self (s : State) : setOwt s.owt s = s := rfl

@[simp] theorem passTicks_one_setInput (i : TickIn) (s : State) : passTicks 1 (setInput i s) = passTicks 1 s := by
  simp [passTicks, setInput]

/-! ## Meanings -/

/-- A meaning that answers a next state changes nothing but `owt`. -/
theorem exec_next_frame {i : Instr} {s t : State} (h : exec i s = .next t) : t = setOwt t.owt s := by
  cases i <;> simp only [exec, execReset, execWbit, execRbit, execWbyte, execRbyte, execRtemp, execSkipRom,
    execConvertT, execReadScratchpad, execWireSkipRom, execWireConvertT, execWireReadScratchpad, execIllegal0,
    execIllegal7, execIllegal8F] at h <;> (try split at h) <;> cases h <;> rfl

/-- Every command word decodes (30_encoding.md R93). -/
theorem decode_cmd (w : CmdWord) : decode (.cmd w) = .ok (pseudoName (decodeCmd w)) := rfl

/-! ## Steps -/

/-- The outcome a transfer leads to. -/
def finish (t : State) : Transfer → Host.Outcome State Fault Refusal
  | .goto o => .next (setOwt o t)
  | .stuck f => .fault f
  | .send o b =>
    match decode (.wire b) with
    | .ok i => exec i (setOwt o t)
    | .rejected .notAWireByte => .refused .notAWireByte

theorem step_illFormed {s : State} (h : ¬CfgWf s.cfg) : step s = .refused .cfgNotWellFormed := by
  simp only [step, planTick, if_neg h]

theorem step_reset {s : State} (hc : CfgWf s.cfg) (hr : (inputNow s).rst = true) :
    step s = .next (setOwt Owt.reset (passTicks 1 s)) := by
  simp only [step, planTick, if_pos hc, hr, if_true]

theorem step_hold {s : State} (hc : CfgWf s.cfg) (hr : (inputNow s).rst = false) (hi : s.owt.run = .idle)
    (hv : (inputNow s).cmdValid = false) : step s = .next (passTicks 1 s) := by
  simp only [step, planTick, if_pos hc, hr, hi, hv, Bool.false_eq_true, if_false]

theorem step_word {s : State} (hc : CfgWf s.cfg) (hr : (inputNow s).rst = false) (hi : s.owt.run = .idle)
    (hv : (inputNow s).cmdValid = true) :
    step s = exec (pseudoName (decodeCmd (inputNow s).cmdWord)) (passTicks 1 s) := by
  simp only [step, planTick, if_pos hc, hr, hi, hv, Bool.false_eq_true, if_false, if_true, decode_cmd]

theorem step_busy {s : State} (hc : CfgWf s.cfg) (hr : (inputNow s).rst = false) (hb : s.owt.run = .busy) :
    step s = finish (passTicks 1 s) (busyTick s.cfg (owIn s) s.owt) := by
  simp only [step, planTick, if_pos hc, hr, hb, Bool.false_eq_true, if_false]
  cases busyTick s.cfg (owIn s) s.owt <;> rfl

/-- Everything a step that answers a next state can have done. -/
theorem step_next_cases {s t : State} (h : step s = .next t) :
    CfgWf s.cfg ∧
      (((inputNow s).rst = true ∧ t = setOwt Owt.reset (passTicks 1 s)) ∨
        ((inputNow s).rst = false ∧ s.owt.run = .idle ∧ (inputNow s).cmdValid = false ∧ t = passTicks 1 s) ∨
        ((inputNow s).rst = false ∧ s.owt.run = .idle ∧ (inputNow s).cmdValid = true ∧
          exec (pseudoName (decodeCmd (inputNow s).cmdWord)) (passTicks 1 s) = .next t) ∨
        ((inputNow s).rst = false ∧ s.owt.run = .busy ∧
          finish (passTicks 1 s) (busyTick s.cfg (owIn s) s.owt) = .next t)) := by
  by_cases hc : CfgWf s.cfg
  · refine ⟨hc, ?_⟩
    cases hr : (inputNow s).rst
    · cases hrun : s.owt.run
      · cases hv : (inputNow s).cmdValid
        · rw [step_hold hc hr hrun hv] at h
          cases h
          simp
        · rw [step_word hc hr hrun hv] at h
          simp [h]
      · rw [step_busy hc hr hrun] at h
        simp [h]
    · rw [step_reset hc hr] at h
      cases h
      simp
  · rw [step_illFormed hc] at h
    cases h

/-! ## The tick of a primitive -/

@[simp] theorem latch_prim (l : Level) (o : Owt) : (latch l o).prim = o.prim := by
  unfold latch; split <;> rfl

@[simp] theorem latch_k (l : Level) (o : Owt) : (latch l o).k = o.k := by
  unfold latch; split <;> rfl

@[simp] theorem latch_run (l : Level) (o : Owt) : (latch l o).run = o.run := by
  unfold latch; split <;> rfl

@[simp] theorem latch_cmd (l : Level) (o : Owt) : (latch l o).cmd = o.cmd := by
  unfold latch; split <;> rfl

@[simp] theorem latch_stage (l : Level) (o : Owt) : (latch l o).stage = o.stage := by
  unfold latch; split <;> rfl

@[simp] theorem latch_bitidx (l : Level) (o : Owt) : (latch l o).bitidx = o.bitidx := by
  unfold latch; split <;> rfl

/-- A tick that is not the last of its primitive counts, after the sample if it is the sample tick. -/
theorem busyTick_count {c : Cfg} {l : Level} {o : Owt} (hp : o.prim ≠ .none) (hk : o.k ≠ primLen c o.prim - 1) :
    busyTick c l o = .goto (setK (nextK c o.k) (sampled c l o)) := by
  have hs : (sampled c l o).k = o.k := by unfold sampled; split <;> simp
  have hq : (sampled c l o).prim = o.prim := by unfold sampled; split <;> simp
  simp [busyTick, hp, hs, hq, hk]

/-- The last tick of a primitive ends it, after the sample if it is the sample tick too. -/
theorem busyTick_end {c : Cfg} {l : Level} {o : Owt} (hp : o.prim ≠ .none) (hk : o.k = primLen c o.prim - 1) :
    busyTick c l o = endPrim (sampled c l o) := by
  have hs : (sampled c l o).k = o.k := by unfold sampled; split <;> simp
  have hq : (sampled c l o).prim = o.prim := by unfold sampled; split <;> simp
  simp [busyTick, hp, hs, hq, hk]

/-- Under a well-formed configuration every primitive has a tick (44_common_laws.md R270). -/
theorem primLen_pos {c : Cfg} (hc : CfgWf c) {p : Prim} (hp : p ≠ .none) : 0 < primLen c p := by
  obtain ⟨h1, h2, h3, h4, h5, h6, h7, h8, h9, h10⟩ := hc
  cases p <;> simp_all [primLen, lReset, lWslot, lRslot, lWait] <;> omega

/-- A primitive's length is counted by TICKW bits (00_scope.md R8). -/
theorem primLen_le {c : Cfg} (hc : CfgWf c) (p : Prim) : primLen c p ≤ 2 ^ c.tickw := by
  obtain ⟨h1, h2, h3, h4, h5, h6, h7, h8, h9, h10, h11, h12, h13⟩ := hc
  cases p <;> simp [primLen] <;> assumption

/-- `k` never wraps inside a primitive (10_state.md R32). -/
theorem nextK_of_lt {c : Cfg} {k : Nat} (h : k + 1 < 2 ^ c.tickw) : nextK c k = k + 1 := Nat.mod_eq_of_lt h

end Sys2Proof.Machine
end

