-- ==== Sys2Proof/Laws/Moves.lean ====
section
/-! SUPPORT. Everything the end of a primitive can do under the invariant, and so everything a step can do. -/

namespace Sys2Proof.Machine

/-- The moves at the last tick of a primitive, from the state after the sample of the tick. -/
inductive EndMove : Owt → Owt → Prop where
  | reset {o : Owt} (hc : o.cmd = .reset) (hp : o.prim = .reset) : EndMove o (resetEnd o)
  | wbit {o : Owt} (hc : o.cmd = .wbit) (hp : o.prim = .wslot) : EndMove o (wbitEnd (shiftSlot o))
  | rbit {o : Owt} (hc : o.cmd = .rbit) (hp : o.prim = .rslot) : EndMove o (rbitEnd o)
  | wbyteNext {o : Owt} (hc : o.cmd = .wbyte) (hp : o.prim = .wslot) (hi : o.bitidx ≠ 7) :
      EndMove o (nextSlot (shiftSlot o))
  | wbyteDone {o : Owt} (hc : o.cmd = .wbyte) (hp : o.prim = .wslot) (hi : o.bitidx = 7) :
      EndMove o (complete (shiftSlot o))
  | rbyteNext {o : Owt} (hc : o.cmd = .rbyte) (hp : o.prim = .rslot) (hi : o.bitidx ≠ 7) : EndMove o (nextSlot o)
  | rbyteDone {o : Owt} (hc : o.cmd = .rbyte) (hp : o.prim = .rslot) (hi : o.bitidx = 7) :
      EndMove o (complete { o with rdata := o.sr })
  | rtempWriteNext {o : Owt} (hc : o.cmd = .rtemp) (hp : o.prim = .wslot)
      (hs : o.stage = .skip1 ∨ o.stage = .conv ∨ o.stage = .skip2 ∨ o.stage = .rdsp) (hi : o.bitidx ≠ 7) :
      EndMove o (nextSlot (shiftSlot o))
  | rtempReadNext {o : Owt} (hc : o.cmd = .rtemp) (hp : o.prim = .rslot)
      (hs : o.stage = .lsb ∨ o.stage = .msb) (hi : o.bitidx ≠ 7) : EndMove o (nextSlot o)
  | abort {o : Owt} (hc : o.cmd = .rtemp) (hp : o.prim = .reset) (hs : o.stage = .rst1 ∨ o.stage = .rst2)
      (hq : o.presence = false) : EndMove o (npAbort o)
  | toSkip1 {o : Owt} (hc : o.cmd = .rtemp) (hp : o.prim = .reset) (hs : o.stage = .rst1) (hq : o.presence = true) :
      EndMove o (startWbyte .skip1 skipRomByte o)
  | toConv {o : Owt} (hc : o.cmd = .rtemp) (hp : o.prim = .wslot) (hs : o.stage = .skip1) (hi : o.bitidx = 7) :
      EndMove o (startWbyte .conv convertTByte (shiftSlot o))
  | toWait {o : Owt} (hc : o.cmd = .rtemp) (hp : o.prim = .wslot) (hs : o.stage = .conv) (hi : o.bitidx = 7) :
      EndMove o (enterStage .wait .wait (shiftSlot o))
  | toRst2 {o : Owt} (hc : o.cmd = .rtemp) (hp : o.prim = .wait) (hs : o.stage = .wait) :
      EndMove o { o with stage := .rst2, prim := .reset, k := 0 }
  | toSkip2 {o : Owt} (hc : o.cmd = .rtemp) (hp : o.prim = .reset) (hs : o.stage = .rst2) (hq : o.presence = true) :
      EndMove o (startWbyte .skip2 skipRomByte o)
  | toRdsp {o : Owt} (hc : o.cmd = .rtemp) (hp : o.prim = .wslot) (hs : o.stage = .skip2) (hi : o.bitidx = 7) :
      EndMove o (startWbyte .rdsp readScratchpadByte (shiftSlot o))
  | toLsb {o : Owt} (hc : o.cmd = .rtemp) (hp : o.prim = .wslot) (hs : o.stage = .rdsp) (hi : o.bitidx = 7) :
      EndMove o (enterStage .lsb .rslot (shiftSlot o))
  | toMsb {o : Owt} (hc : o.cmd = .rtemp) (hp : o.prim = .rslot) (hs : o.stage = .lsb) (hi : o.bitidx = 7) :
      EndMove o (lsbDone o)
  | rtempDone {o : Owt} (hc : o.cmd = .rtemp) (hp : o.prim = .rslot) (hs : o.stage = .msb) (hi : o.bitidx = 7) :
      EndMove o (msbDone o)

theorem finish_skipRom {t : State} {o : Owt} (h : o.stage = .rst1) :
    finish t (.send o skipRomByte) = .next (setOwt (startWbyte .skip1 skipRomByte o) t) := by
  simp [finish, decode, decodeWire, exec, execWireSkipRom, h]

theorem finish_skipRom2 {t : State} {o : Owt} (h : o.stage = .rst2) :
    finish t (.send o skipRomByte) = .next (setOwt (startWbyte .skip2 skipRomByte o) t) := by
  simp [finish, decode, decodeWire, exec, execWireSkipRom, h]

theorem finish_convertT {t : State} {o : Owt} (h : o.stage = .skip1) :
    finish t (.send o convertTByte) = .next (setOwt (startWbyte .conv convertTByte o) t) := by
  simp [finish, decode, decodeWire, exec, execWireConvertT, h, convertTByte, skipRomByte]

theorem finish_readScratchpad {t : State} {o : Owt} (h : o.stage = .skip2) :
    finish t (.send o readScratchpadByte) = .next (setOwt (startWbyte .rdsp readScratchpadByte o) t) := by
  simp [finish, decode, decodeWire, exec, execWireReadScratchpad, h, readScratchpadByte, convertTByte, skipRomByte]

@[simp] theorem finish_goto (t : State) (o : Owt) : finish t (.goto o) = .next (setOwt o t) := rfl

theorem byteStep_done {o : Owt} {d : Transfer} (h : o.bitidx = 7) : byteStep d o = d := if_pos h

theorem byteStep_next {o : Owt} {d : Transfer} (h : o.bitidx ≠ 7) : byteStep d o = .goto (nextSlot o) := if_neg h

/-- The end of a primitive whose command, stage and primitive belong together makes one of the moves. -/
theorem endPrim_move {t : State} {o : Owt} (hp : o.prim = primFor o.cmd o.stage) (hn : o.prim ≠ .none) :
    ∃ o', EndMove o o' ∧ finish t (endPrim o) = .next (setOwt o' t) := by
  cases hc : o.cmd <;> rw [hc] at hp
  case none => exact absurd hp hn
  case reset => exact ⟨_, .reset hc hp, by simp [endPrim, hp, primFor, hc]⟩
  case wbit => exact ⟨_, .wbit hc hp, by simp [endPrim, hp, primFor, hc]⟩
  case rbit => exact ⟨_, .rbit hc hp, by simp [endPrim, hp, primFor, hc]⟩
  case wbyte =>
    by_cases hi : o.bitidx = 7
    · exact ⟨_, .wbyteDone hc hp hi, by simp [endPrim, hp, primFor, hc, wbyteSlotEnd, byteStep_done (o := shiftSlot o) hi]⟩
    · exact ⟨_, .wbyteNext hc hp hi, by simp [endPrim, hp, primFor, hc, wbyteSlotEnd, byteStep_next (o := shiftSlot o) hi]⟩
  case rbyte =>
    by_cases hi : o.bitidx = 7
    · exact ⟨_, .rbyteDone hc hp hi, by simp [endPrim, hp, primFor, hc, rbyteSlotEnd, byteStep_done (o := o) hi]⟩
    · exact ⟨_, .rbyteNext hc hp hi, by simp [endPrim, hp, primFor, hc, rbyteSlotEnd, byteStep_next (o := o) hi]⟩
  case rtemp =>
    cases hs : o.stage <;> rw [hs] at hp
    case none => exact absurd hp hn
    case rst1 =>
      cases hq : o.presence
      · exact ⟨_, .abort hc hp (.inl hs) hq, by simp [endPrim, hp, primFor, hc, rtempPrimEnd, hs, hq]⟩
      · exact ⟨_, .toSkip1 hc hp hs hq, by simp [endPrim, hp, primFor, hc, rtempPrimEnd, hs, hq, finish_skipRom]⟩
    case rst2 =>
      cases hq : o.presence
      · exact ⟨_, .abort hc hp (.inr hs) hq, by simp [endPrim, hp, primFor, hc, rtempPrimEnd, hs, hq]⟩
      · exact ⟨_, .toSkip2 hc hp hs hq, by simp [endPrim, hp, primFor, hc, rtempPrimEnd, hs, hq, finish_skipRom2]⟩
    case wait => exact ⟨_, .toRst2 hc hp hs, by simp [endPrim, hp, primFor, hc, rtempPrimEnd, hs]⟩
    case skip1 =>
      by_cases hi : o.bitidx = 7
      · exact ⟨_, .toConv hc hp hs hi, by
          simp [endPrim, hp, primFor, hc, rtempPrimEnd, hs, byteStep_done (o := shiftSlot o) hi, finish_convertT]⟩
      · exact ⟨_, .rtempWriteNext hc hp (by simp [hs]) hi, by
          simp [endPrim, hp, primFor, hc, rtempPrimEnd, hs, byteStep_next (o := shiftSlot o) hi]⟩
    case conv =>
      by_cases hi : o.bitidx = 7
      · exact ⟨_, .toWait hc hp hs hi, by
          simp [endPrim, hp, primFor, hc, rtempPrimEnd, hs, byteStep_done (o := shiftSlot o) hi]⟩
      · exact ⟨_, .rtempWriteNext hc hp (by simp [hs]) hi, by
          simp [endPrim, hp, primFor, hc, rtempPrimEnd, hs, byteStep_next (o := shiftSlot o) hi]⟩
    case skip2 =>
      by_cases hi : o.bitidx = 7
      · exact ⟨_, .toRdsp hc hp hs hi, by
          simp [endPrim, hp, primFor, hc, rtempPrimEnd, hs, byteStep_done (o := shiftSlot o) hi, finish_readScratchpad]⟩
      · exact ⟨_, .rtempWriteNext hc hp (by simp [hs]) hi, by
          simp [endPrim, hp, primFor, hc, rtempPrimEnd, hs, byteStep_next (o := shiftSlot o) hi]⟩
    case rdsp =>
      by_cases hi : o.bitidx = 7
      · exact ⟨_, .toLsb hc hp hs hi, by
          simp [endPrim, hp, primFor, hc, rtempPrimEnd, hs, byteStep_done (o := shiftSlot o) hi]⟩
      · exact ⟨_, .rtempWriteNext hc hp (by simp [hs]) hi, by
          simp [endPrim, hp, primFor, hc, rtempPrimEnd, hs, byteStep_next (o := shiftSlot o) hi]⟩
    case lsb =>
      by_cases hi : o.bitidx = 7
      · exact ⟨_, .toMsb hc hp hs hi, by
          simp [endPrim, hp, primFor, hc, rtempPrimEnd, hs, byteStep_done (o := o) hi]⟩
      · exact ⟨_, .rtempReadNext hc hp (by simp [hs]) hi, by
          simp [endPrim, hp, primFor, hc, rtempPrimEnd, hs, byteStep_next (o := o) hi]⟩
    case msb =>
      by_cases hi : o.bitidx = 7
      · exact ⟨_, .rtempDone hc hp hs hi, by
          simp [endPrim, hp, primFor, hc, rtempPrimEnd, hs, byteStep_done (o := o) hi]⟩
      · exact ⟨_, .rtempReadNext hc hp (by simp [hs]) hi, by
          simp [endPrim, hp, primFor, hc, rtempPrimEnd, hs, byteStep_next (o := o) hi]⟩

/-- What the sample of a tick can write: nothing off the sample tick; `presence` in P_RESET; `sr` in P_RSLOT. -/
theorem sampled_cases (c : Cfg) (l : Level) (o : Owt) :
    (primSample c o.prim ≠ some o.k ∧ sampled c l o = o) ∨
      (primSample c o.prim = some o.k ∧ o.prim = .reset ∧ sampled c l o = { o with presence := presenceOf l }) ∨
      (primSample c o.prim = some o.k ∧ o.prim = .rslot ∧
        sampled c l o = { o with sr := shiftIn (levelBit l) o.sr }) := by
  by_cases h : primSample c o.prim = some o.k
  · right
    have hs : sampled c l o = latch l o := if_pos h
    cases hp : o.prim <;> simp only [hp, primSample, reduceCtorEq] at h
    · exact .inl ⟨by simpa [primSample] using h, rfl, by simp [hs, latch, hp]⟩
    · exact .inr ⟨by simpa [primSample] using h, rfl, by simp [hs, latch, hp]⟩
  · exact .inl ⟨h, if_neg h⟩

/-- The frame of the sample: only `presence` and `sr` can change. -/
theorem sampled_frame (c : Cfg) (l : Level) (o : Owt) :
    ∃ p r, sampled c l o = { o with presence := p, sr := r } := by
  obtain ⟨-, h⟩ | ⟨-, -, h⟩ | ⟨-, -, h⟩ := sampled_cases c l o
  · exact ⟨o.presence, o.sr, h⟩
  · exact ⟨_, o.sr, h⟩
  · exact ⟨o.presence, _, h⟩

/-- Under the invariant a Busy tick without reset counts, or makes one of the moves of `EndMove`. -/
theorem step_busy_moves {s : State} (hi : Inv s) (hr : (inputNow s).rst = false) (hb : s.owt.run = .busy) :
    (¬AtPrimEnd s ∧ s.owt.k < primLen s.cfg s.owt.prim - 1 ∧
        step s = .next (setOwt (setK (s.owt.k + 1) (sampled s.cfg (owIn s) s.owt)) (passTicks 1 s))) ∨
      (AtPrimEnd s ∧ ∃ o', EndMove (sampled s.cfg (owIn s) s.owt) o' ∧
        step s = .next (setOwt o' (passTicks 1 s))) := by
  have hn : s.owt.prim ≠ .none := fun e => by simpa [hb] using hi.reachable.idlePrim.2 e
  have hk := hi.reachable.busyTickInside hb
  have hw := primLen_le hi.cfgWf s.owt.prim
  by_cases he : s.owt.k = primLen s.cfg s.owt.prim - 1
  · right
    refine ⟨⟨hb, he⟩, ?_⟩
    rw [step_busy hi.cfgWf hr hb, busyTick_end hn he]
    obtain ⟨p, r, hf⟩ := sampled_frame s.cfg (owIn s) s.owt
    rw [hf]
    exact endPrim_move hi.form.primOfStage hn
  · left
    refine ⟨fun h => he h.2, by omega, ?_⟩
    rw [step_busy hi.cfgWf hr hb, busyTick_count hn he, nextK_of_lt (by omega)]
    rfl

/-- The sixteen opcodes. -/
theorem op_cases : ∀ op : BitVec 4, op = 0x0 ∨ op = 0x1 ∨ op = 0x2 ∨ op = 0x3 ∨ op = 0x4 ∨ op = 0x5 ∨ op = 0x6 ∨
    op = 0x7 ∨ op = 0x8 ∨ op = 0x9 ∨ op = 0xA ∨ op = 0xB ∨ op = 0xC ∨ op = 0xD ∨ op = 0xE ∨ op = 0xF := by
  decide

/-- `accept` (10_state.md R28) as one function of the word. -/
def acceptWord (w : CmdWord) (o : Owt) : Owt :=
  match opField w with
  | 0x1#4 => acceptReset o
  | 0x2#4 => acceptWbit (bitOperand (dField w)) o
  | 0x3#4 => acceptRbit o
  | 0x4#4 => acceptWbyte (dField w) o
  | 0x5#4 => acceptRbyte o
  | 0x6#4 => acceptRtemp o
  | _ => illegalCommand o

/-- A pseudo-instruction has the meaning of its expansion (30_encoding.md R103). -/
theorem exec_pseudoName (i : Instr) (s : State) : exec (pseudoName i) s = exec i s := by
  unfold pseudoName
  split
  · split_ifs <;> simp_all [exec, execWbyte, execSkipRom, execConvertT, execReadScratchpad]
  · rfl

/-- Running the decoded word is `accept` (10_state.md R28). -/
theorem exec_word (w : CmdWord) (s : State) :
    exec (pseudoName (decodeCmd w)) s = .next (setOwt (acceptWord w s.owt) s) := by
  rw [exec_pseudoName]
  unfold decodeCmd acceptWord
  rcases op_cases (opField w) with e | e | e | e | e | e | e | e | e | e | e | e | e | e | e | e <;>
    simp only [e] <;> rfl

/-- An Idle step with a word presented is `accept`. -/
theorem step_word_accept {s : State} (hc : CfgWf s.cfg) (hr : (inputNow s).rst = false) (hi : s.owt.run = .idle)
    (hv : (inputNow s).cmdValid = true) :
    step s = .next (setOwt (acceptWord (inputNow s).cmdWord s.owt) (passTicks 1 s)) := by
  rw [step_word hc hr hi hv, exec_word]
  rfl

/-- Everything a step under the invariant can do. -/
theorem step_cases_of_inv {s t : State} (hi : Inv s) (h : step s = .next t) :
    ((inputNow s).rst = true ∧ t = setOwt Owt.reset (passTicks 1 s)) ∨
      ((inputNow s).rst = false ∧ s.owt.run = .idle ∧ (inputNow s).cmdValid = false ∧ t = passTicks 1 s) ∨
      ((inputNow s).rst = false ∧ s.owt.run = .idle ∧ (inputNow s).cmdValid = true ∧
        t = setOwt (acceptWord (inputNow s).cmdWord s.owt) (passTicks 1 s)) ∨
      ((inputNow s).rst = false ∧ s.owt.run = .busy ∧ ¬AtPrimEnd s ∧ s.owt.k < primLen s.cfg s.owt.prim - 1 ∧
        t = setOwt (setK (s.owt.k + 1) (sampled s.cfg (owIn s) s.owt)) (passTicks 1 s)) ∨
      ((inputNow s).rst = false ∧ s.owt.run = .busy ∧ AtPrimEnd s ∧
        ∃ o', EndMove (sampled s.cfg (owIn s) s.owt) o' ∧ t = setOwt o' (passTicks 1 s)) := by
  cases hr : (inputNow s).rst
  · cases hb : s.owt.run
    · cases hv : (inputNow s).cmdValid
      · rw [step_hold hi.cfgWf hr hb hv] at h
        cases h
        simp
      · rw [step_word_accept hi.cfgWf hr hb hv] at h
        cases h
        simp
    · obtain ⟨he, hk, e⟩ | ⟨he, o', hm, e⟩ := step_busy_moves hi hr hb <;> rw [e] at h <;> cases h
      · simp [he, hk]
      · simp only [he, true_and, reduceCtorEq, false_and, false_or, and_false, not_true_eq_false,
          Bool.false_eq_true]
        exact ⟨o', hm, rfl⟩
  · rw [step_reset hi.cfgWf hr] at h
    cases h
    simp

end Sys2Proof.Machine
end

