-- ==== Sys2Proof/Laws/PerInstr.lean ====
section
/-! SUPPORT. Per instruction: the encoder's word has the fixed bits of the instruction's row of spec/opcode_table.json. -/

namespace Sys2Proof.Laws.EncodingFitsRow

/-- The words of a well-formed instruction match its row of the opcode table. -/
def Statement (i : Instr) : Prop := WellFormed i = true → (tableRow i).fits (encode i) = true

theorem reset : Statement .reset := fun _ => by decide

theorem wbit : ∀ b : BitVec 1, Statement (.wbit b) := by
  unfold Statement
  decide

theorem rbit : Statement .rbit := fun _ => by decide

theorem wbyte : ∀ v : Byte, Statement (.wbyte v) := by
  unfold Statement
  decide

theorem rbyte : Statement .rbyte := fun _ => by decide

theorem rtemp : Statement .rtemp := fun _ => by decide

theorem skipRom : Statement .skipRom := fun _ => by decide

theorem convertT : Statement .convertT := fun _ => by decide

theorem readScratchpad : Statement .readScratchpad := fun _ => by decide

theorem wireSkipRom : Statement .wireSkipRom := fun _ => by decide

theorem wireConvertT : Statement .wireConvertT := fun _ => by decide

theorem wireReadScratchpad : Statement .wireReadScratchpad := fun _ => by decide

theorem illegal0 : Statement .illegal0 := fun _ => by decide

theorem illegal7 : Statement .illegal7 := fun _ => by decide

theorem illegal8F : ∀ op : BitVec 4, Statement (.illegal8F op) := by
  unfold Statement
  decide

end Sys2Proof.Laws.EncodingFitsRow
end

