-- ==== Sys2Proof/Laws/Runs.lean ====
section
/-! SUPPORT. Runs of ticks: how they compose, and what a primitive does from its first tick to its last. -/

namespace Sys2Proof.Machine

theorem runTicks_succ {n : Nat} {s t : State} (h : step s = .next t) : runTicks (n + 1) s = runTicks n t := by
  simp only [runTicks, h]

theorem runTicks_add {m n : Nat} {s t : State} (h : runTicks m s = .next t) : runTicks (m + n) s = runTicks n t := by
  induction m generalizing s with
  | zero => cases h; simp
  | succ m ih =>
    rw [Nat.succ_add]
    simp only [runTicks] at h ⊢
    cases hs : step s <;> simp only [hs] at h ⊢
    · exact ih h
    · cases h
    · cases h

/-- An Idle OWT holds as long as nothing is presented (10_state.md R27). -/
theorem runTicks_idle {s : State} (hc : CfgWf s.cfg) (hi : s.owt.run = .idle) {n : Nat}
    (hq : ∀ j, j < n → (inputAt s j).rst = false ∧ (inputAt s j).cmdValid = false) :
    runTicks n s = .next (passTicks n s) := by
  induction n with
  | zero => rfl
  | succ n ih =>
    rw [runTicks_add (ih fun j hj => hq j (by omega))]
    obtain ⟨hr, hv⟩ := hq n (by omega)
    rw [runTicks_succ (n := 0) (step_hold (s := passTicks n s) hc (by simpa using hr) hi (by simpa using hv)),
      passTicks_add]
    rfl

theorem driveTrace_add {m n : Nat} {s t : State} (h : runTicks m s = .next t) :
    driveTrace (m + n) s = driveTrace m s ++ driveTrace n t := by
  induction m generalizing s with
  | zero => cases h; simp [driveTrace]
  | succ m ih =>
    rw [Nat.succ_add]
    simp only [runTicks] at h
    cases hs : step s <;> simp only [hs] at h
    · simp only [driveTrace, hs, ih h, List.cons_append]
    · cases h
    · cases h

/-- The line as a primitive samples it, OWT having released it (20_memory.md R64). -/
def sampleLevel (s : State) (j : Nat) : Level := lineLevel false (pullAt s j)

/-- `o` as `n` ticks of its primitive, from tick 0 in the present tick of `s`, leave it, but for `k`. -/
def sampledBy (s : State) (n : Nat) (o : Owt) : Owt :=
  match primSample s.cfg o.prim with
  | none => o
  | some m => if m < n then latch (sampleLevel s m) o else o

@[simp] theorem sampledBy_prim (s : State) (n : Nat) (o : Owt) : (sampledBy s n o).prim = o.prim := by
  unfold sampledBy; split <;> (try split) <;> simp

@[simp] theorem sampledBy_run (s : State) (n : Nat) (o : Owt) : (sampledBy s n o).run = o.run := by
  unfold sampledBy; split <;> (try split) <;> simp

@[simp] theorem sampledBy_k (s : State) (n : Nat) (o : Owt) : (sampledBy s n o).k = o.k := by
  unfold sampledBy; split <;> (try split) <;> simp

theorem latch_setK (l : Level) (k : Nat) (o : Owt) : latch l (setK k o) = setK k (latch l o) := by
  cases h : o.prim <;> simp only [latch, setK_prim, h] <;> rfl

@[simp] theorem setK_setK (m n : Nat) (o : Owt) : setK m (setK n o) = setK m o := rfl

@[simp] theorem setK_self (o : Owt) : setK o.k o = o := rfl

/-- OWT does not drive the line at a sample tick (20_memory.md R64). -/
theorem owOe_at_sample {c : Cfg} (hc : CfgWf c) {o : Owt} (h : primSample c o.prim = some o.k) : owOe c o = false := by
  cases hp : o.prim <;> simp only [hp, primSample, reduceCtorEq, Option.some.injEq] at h <;>
    simp only [owOe, hp, primLowlen, Bool.and_eq_false_iff, decide_eq_false_iff_not] <;> right <;> omega

/-- The tick `n` of a primitive adds exactly the sample of that tick. -/
theorem sampled_sampledBy {s : State} (hc : CfgWf s.cfg) (n : Nat) (o : Owt) :
    sampled s.cfg (lineLevel (owOe s.cfg (setK n (sampledBy s n o))) (pullAt s n)) (setK n (sampledBy s n o))
      = setK n (sampledBy s (n + 1) o) := by
  unfold sampled
  simp only [setK_prim, sampledBy_prim, setK_k]
  by_cases h : primSample s.cfg o.prim = some n
  · rw [if_pos h, owOe_at_sample hc (by simpa using h), latch_setK]
    simp [sampledBy, h, sampleLevel]
  · rw [if_neg h]
    unfold sampledBy
    cases hm : primSample s.cfg o.prim with
    | none => rfl
    | some m =>
      have : m ≠ n := fun e => h (by rw [hm, e])
      have e : (m < n + 1) = (m < n) := by simp only [eq_iff_iff]; omega
      simp only [e]

/-- The first `n` ticks of a primitive, not its last: the counter, and the sample once its tick has passed. -/
theorem runTicks_primitive {s : State} (hc : CfgWf s.cfg) (hb : s.owt.run = .busy) (hp : s.owt.prim ≠ .none)
    (hk : s.owt.k = 0) {n : Nat} (hn : n < primLen s.cfg s.owt.prim) (hr : ∀ j, j < n → (inputAt s j).rst = false) :
    runTicks n s = .next (setOwt (setK n (sampledBy s n s.owt)) (passTicks n s)) := by
  induction n with
  | zero =>
    have h : sampledBy s 0 s.owt = s.owt := by unfold sampledBy; split <;> simp
    have e : setK 0 s.owt = s.owt := by rw [← hk]; rfl
    rw [h, e]
    rfl
  | succ n ih =>
    have h1 := ih (by omega) (fun j hj => hr j (by omega))
    rw [runTicks_add h1]
    have hw := primLen_le hc s.owt.prim
    have hst : step (setOwt (setK n (sampledBy s n s.owt)) (passTicks n s))
        = .next (setOwt (setK (n + 1) (sampledBy s (n + 1) s.owt)) (passTicks (n + 1) s)) := by
      rw [step_busy (by simpa using hc) (by simpa using hr n (by omega)) (by simpa using hb)]
      rw [busyTick_count (by simpa using hp) (by simp; omega)]
      have hl : owIn (setOwt (setK n (sampledBy s n s.owt)) (passTicks n s))
          = lineLevel (owOe s.cfg (setK n (sampledBy s n s.owt))) (pullAt s n) := by
        simp [owIn, pullAt]
      simp only [setOwt_cfg, passTicks_cfg, setOwt_owt, hl, sampled_sampledBy hc]
      rw [setK_k, nextK_of_lt (by omega)]
      simp [finish, passTicks_add]
    simp only [runTicks, hst]

/-- A whole primitive: its sample, then its end (10_state.md R27, R30). -/
theorem runTicks_primitive_end {s : State} (hc : CfgWf s.cfg) (hb : s.owt.run = .busy) (hp : s.owt.prim ≠ .none)
    (hk : s.owt.k = 0) (hr : ∀ j, j < primLen s.cfg s.owt.prim → (inputAt s j).rst = false) :
    runTicks (primLen s.cfg s.owt.prim) s
      = finish (passTicks (primLen s.cfg s.owt.prim) s)
          (endPrim (setK (primLen s.cfg s.owt.prim - 1) (sampledBy s (primLen s.cfg s.owt.prim) s.owt))) := by
  have h0 := primLen_pos hc hp
  obtain ⟨n, hn⟩ : ∃ n, primLen s.cfg s.owt.prim = n + 1 := ⟨primLen s.cfg s.owt.prim - 1, by omega⟩
  rw [hn] at hr ⊢
  have h1 := runTicks_primitive hc hb hp hk (n := n) (by omega) (fun j hj => hr j (by omega))
  rw [runTicks_add h1]
  have hst : step (setOwt (setK n (sampledBy s n s.owt)) (passTicks n s))
      = finish (passTicks (n + 1) s) (endPrim (setK n (sampledBy s (n + 1) s.owt))) := by
    rw [step_busy (by simpa using hc) (by simpa using hr n (by omega)) (by simpa using hb)]
    rw [busyTick_end (by simpa using hp) (by simp; omega)]
    have hl : owIn (setOwt (setK n (sampledBy s n s.owt)) (passTicks n s))
        = lineLevel (owOe s.cfg (setK n (sampledBy s n s.owt))) (pullAt s n) := by
      simp [owIn, pullAt]
    simp only [setOwt_cfg, passTicks_cfg, setOwt_owt, hl, sampled_sampledBy hc]
    simp only [passTicks_setOwt, passTicks_add]
    cases endPrim (setK n (sampledBy s (n + 1) s.owt)) <;> simp [finish]
  simp only [runTicks, hst, Nat.add_sub_cancel]
  cases finish (passTicks (n + 1) s) (endPrim (setK n (sampledBy s (n + 1) s.owt))) <;> rfl

end Sys2Proof.Machine
end

