-- ==== Sys2Proof/Laws/Primitives.lean ====
section
/-! SUPPORT. A whole primitive, from its first tick to its last: the move it ends in, and what it drives on the line. -/

namespace Sys2Proof.Machine

/-- The frame of the ticks of a primitive before its end: only `presence` and `sr` can change. -/
theorem sampledBy_frame (s : State) (n : Nat) (o : Owt) :
    ∃ p r, sampledBy s n o = { o with presence := p, sr := r } := by
  unfold sampledBy
  split
  · exact ⟨_, _, rfl⟩
  · split
    · unfold latch
      split <;> exact ⟨_, _, rfl⟩
    · exact ⟨_, _, rfl⟩

/-- A whole primitive makes one move of `EndMove`, from the state with its sample taken. -/
theorem runTicks_primitive_move {s : State} (hc : CfgWf s.cfg) (hb : s.owt.run = .busy)
    (hp : s.owt.prim = primFor s.owt.cmd s.owt.stage) (hn : s.owt.prim ≠ .none) (hk : s.owt.k = 0)
    (hr : ∀ j, j < primLen s.cfg s.owt.prim → (inputAt s j).rst = false) :
    ∃ o', EndMove (setK (primLen s.cfg s.owt.prim - 1) (sampledBy s (primLen s.cfg s.owt.prim) s.owt)) o' ∧
      runTicks (primLen s.cfg s.owt.prim) s = .next (setOwt o' (passTicks (primLen s.cfg s.owt.prim) s)) := by
  rw [runTicks_primitive_end hc hb hn hk hr]
  obtain ⟨p, r, e⟩ := sampledBy_frame s (primLen s.cfg s.owt.prim) s.owt
  rw [e]
  exact endPrim_move hp hn

/-- No sample changes how long a primitive drives low: P_RSLOT, the only one whose sample writes `sr`, drives for a
time of its own (10_state.md R24). -/
theorem primLowlen_sampledBy (c : Cfg) (s : State) (n : Nat) (o : Owt) :
    primLowlen c (sampledBy s n o).prim (sampledBy s n o).sr = primLowlen c o.prim o.sr := by
  rw [sampledBy_prim]
  cases h : o.prim <;> simp only [primLowlen]
  unfold sampledBy
  split
  · rfl
  · split
    · simp only [latch, h]
    · rfl

/-- The first `n` ticks of a primitive drive low for `lowlen` ticks and release the line after (10_state.md R35). -/
theorem driveTrace_primitive {s : State} (hc : CfgWf s.cfg) (hb : s.owt.run = .busy) (hp : s.owt.prim ≠ .none)
    (hk : s.owt.k = 0) {n : Nat} (hn : n ≤ primLen s.cfg s.owt.prim)
    (hr : ∀ j, j < n → (inputAt s j).rst = false) :
    driveTrace n s = (List.range n).map fun j => decide (j < primLowlen s.cfg s.owt.prim s.owt.sr) := by
  induction n with
  | zero => rfl
  | succ n ih =>
    have h1 := runTicks_primitive hc hb hp hk (n := n) (by omega) (fun j hj => hr j (by omega))
    rw [driveTrace_add h1, ih (by omega) (fun j hj => hr j (by omega)), List.range_succ, List.map_append]
    congr 1
    have e := primLowlen_sampledBy s.cfg s n s.owt
    simp only [sampledBy_prim] at e
    simp only [driveTrace, setOwt_cfg, setOwt_owt, passTicks_cfg, List.map_cons, List.map_nil, owOe, setK_run,
      sampledBy_run, hb, decide_true, Bool.true_and, setK_k, setK_prim, sampledBy_prim, setK_sr, e]
    cases step (setOwt (setK n (sampledBy s n s.owt)) (passTicks n s)) <;> rfl


/-! ## The slots of a byte -/

/-- Inside a byte, the end of a slot leads to the next slot (42_byte_serialization.md R161). -/
theorem EndMove.eq_nextSlot {o o' : Owt} (h : EndMove o o') (hm : movesByte o.cmd o.stage = true)
    (hi : o.bitidx ≠ 7) : o' = nextSlot (if o.prim = .wslot then shiftSlot o else o) := by
  cases h
  case rtempWriteNext hc hp hs h7 => simp [hp]
  case rtempReadNext hc hp hs h7 => simp [hp]
  case abort hc hp hs hq =>
    rw [hc] at hm
    rcases hs with hs | hs <;> rw [hs] at hm <;> cases hm
  all_goals simp_all [movesByte]

/-- `sr` after the slot that begins in the present tick (41_bit_slots.md R140, R145). -/
def slotSr (s : State) : Byte :=
  if s.owt.prim = .wslot then shiftOut s.owt.sr
  else shiftIn (levelBit (sampleLevel s (s.cfg.tRdl + s.cfg.tRds))) s.owt.sr

theorem slot_prim {o : Owt} (hp : o.prim = primFor o.cmd o.stage) (hm : movesByte o.cmd o.stage = true) :
    o.prim = .wslot ∨ o.prim = .rslot := by
  rw [hp]
  revert hm
  cases o.cmd <;> cases o.stage <;> decide

/-- One slot of a byte, not the eighth: it shifts its bit and counts. -/
theorem runTicks_slot {s : State} (hc : CfgWf s.cfg) (hb : s.owt.run = .busy)
    (hp : s.owt.prim = primFor s.owt.cmd s.owt.stage) (hm : movesByte s.owt.cmd s.owt.stage = true)
    (hk : s.owt.k = 0) (hi : s.owt.bitidx ≠ 7)
    (hr : ∀ j, j < primLen s.cfg s.owt.prim → (inputAt s j).rst = false) :
    runTicks (primLen s.cfg s.owt.prim) s =
      .next (setOwt { s.owt with sr := slotSr s, bitidx := s.owt.bitidx + 1 }
        (passTicks (primLen s.cfg s.owt.prim) s)) := by
  have hn := slot_prim hp hm
  obtain ⟨o', hmv, h⟩ := runTicks_primitive_move hc hb hp (by rcases hn with h | h <;> rw [h] <;> decide) hk hr
  rw [h]
  obtain ⟨p, r, e⟩ := sampledBy_frame s (primLen s.cfg s.owt.prim) s.owt
  have ho := hmv.eq_nextSlot (by rw [e]; exact hm) (by rw [e]; exact hi)
  have hlt : s.cfg.tRdl + s.cfg.tRds < primLen s.cfg .rslot := hc.2.2.2.2.1.2
  rw [ho]
  rcases hn with hw | hw
  · simp [sampledBy, primSample, hw, slotSr, nextSlot, shiftSlot, setK, hk]
  · simp only [sampledBy, primSample, hw, hlt, if_true, latch, slotSr]
    simp [nextSlot, setK, hk]

/-- The first `i` slots of a byte, `f` being `sr` slot by slot. -/
theorem runTicks_slots {s : State} {f : Nat → Byte} (hc : CfgWf s.cfg) (hb : s.owt.run = .busy)
    (hp : s.owt.prim = primFor s.owt.cmd s.owt.stage) (hm : movesByte s.owt.cmd s.owt.stage = true)
    (hk : s.owt.k = 0) (h0 : s.owt.bitidx = 0) (hf0 : f 0 = s.owt.sr)
    (hf : ∀ i, i < 7 → f (i + 1) = slotSr (setOwt { s.owt with sr := f i, bitidx := BitVec.ofNat 3 i }
      (passTicks (i * primLen s.cfg s.owt.prim) s)))
    {i : Nat} (hi : i < 8) (hr : ∀ j, j < i * primLen s.cfg s.owt.prim → (inputAt s j).rst = false) :
    runTicks (i * primLen s.cfg s.owt.prim) s = .next (setOwt { s.owt with sr := f i, bitidx := BitVec.ofNat 3 i }
      (passTicks (i * primLen s.cfg s.owt.prim) s)) := by
  induction i with
  | zero =>
    rw [hf0, show BitVec.ofNat 3 0 = s.owt.bitidx from h0.symm]
    simp only [Nat.zero_mul]
    rfl
  | succ i ih =>
    have h1 := ih (by omega) (fun j hj => hr j (by rw [Nat.succ_mul]; omega))
    have h7 : BitVec.ofNat 3 i ≠ 7 := by
      intro e
      have := congrArg BitVec.toNat e
      simp at this
      omega
    have h2 := runTicks_slot
      (s := setOwt { s.owt with sr := f i, bitidx := BitVec.ofNat 3 i } (passTicks (i * primLen s.cfg s.owt.prim) s))
      hc hb hp hm hk h7 (fun j hj => by
        simp only [setOwt_cfg, passTicks_cfg, setOwt_owt] at hj
        rw [inputAt_setOwt, inputAt_passTicks]
        exact hr _ (by rw [Nat.succ_mul]; omega))
    rw [← hf i (by omega)] at h2
    simp only [setOwt_cfg, passTicks_cfg, setOwt_owt] at h2
    rw [Nat.succ_mul, runTicks_add h1, h2, passTicks_setOwt, setOwt_setOwt, passTicks_add,
      show BitVec.ofNat 3 i + 1 = BitVec.ofNat 3 (i + 1) from (BitVec.ofNat_add i 1).symm]

end Sys2Proof.Machine
end

