-- ==== Sys2Proof/Tests/Slice0.lean ====
section
/-! SUPPORT. Own tests: well-formedness, words written out from spec/30_encoding.md, one step per instruction, and for
every statement with hypotheses a state that meets them. -/

namespace Sys2Proof.Tests

open Sys2Proof.Machine

/-! ## Well-formedness (30_encoding.md R92, R94) -/

theorem test_wf_refuses_illegal8F_0 : WellFormed (.illegal8F 0x0) = false := by decide
theorem test_wf_refuses_illegal8F_7 : WellFormed (.illegal8F 0x7) = false := by decide
theorem test_wf_admits_illegal8F_8 : WellFormed (.illegal8F 0x8) = true := by decide
theorem test_wf_admits_illegal8F_F : WellFormed (.illegal8F 0xF) = true := by decide

/-- 00_scope.md R8, the bounds at their edges. -/
theorem test_cfg_default_wf : CfgWf Cfg.default := by decide
theorem test_cfg_refuses_short_reset : ¬CfgWf { Cfg.default with tRstl := 479 } := by decide
theorem test_cfg_refuses_late_presence : ¬CfgWf { Cfg.default with tPds := 480 } := by decide
theorem test_cfg_refuses_long_one : ¬CfgWf { Cfg.default with tW1l := 15 } := by decide
theorem test_cfg_refuses_late_read : ¬CfgWf { Cfg.default with tRds := 14 } := by decide
theorem test_cfg_refuses_no_recovery : ¬CfgWf { Cfg.default with tRec := 0 } := by decide
theorem test_cfg_refuses_short_conversion : ¬CfgWf { Cfg.default with tConv := 749999 } := by decide
theorem test_cfg_refuses_narrow_counter : ¬CfgWf { Cfg.default with tickw := 19 } := by decide

/-! ## Words written out bit by bit (30_encoding.md R90, R91, R100; 95_test_vectors.md section 6) -/

theorem test_decode_illegal0 : decode (.cmd 0b0000_10100101) = .ok .illegal0 := by decide
theorem test_decode_reset : decode (.cmd 0b0001_00000000) = .ok .reset := by decide
theorem test_decode_wbit_one : decode (.cmd 0b0010_00000001) = .ok (.wbit 1) := by decide
theorem test_decode_wbit_zero : decode (.cmd 0b0010_11111110) = .ok (.wbit 0) := by decide
theorem test_decode_rbit : decode (.cmd 0b0011_11111111) = .ok .rbit := by decide
theorem test_decode_wbyte : decode (.cmd 0b0100_10110001) = .ok (.wbyte 0xB1) := by decide
theorem test_decode_rbyte : decode (.cmd 0b0101_00000000) = .ok .rbyte := by decide
theorem test_decode_rtemp : decode (.cmd 0b0110_00000000) = .ok .rtemp := by decide
theorem test_decode_illegal7 : decode (.cmd 0b0111_00000001) = .ok .illegal7 := by decide
theorem test_decode_illegal8 : decode (.cmd 0b1000_00000000) = .ok (.illegal8F 0x8) := by decide
theorem test_decode_illegalF : decode (.cmd 0b1111_11111111) = .ok (.illegal8F 0xF) := by decide
theorem test_decode_skipRom : decode (.cmd 0b0100_11001100) = .ok .skipRom := by decide
theorem test_decode_convertT : decode (.cmd 0b0100_01000100) = .ok .convertT := by decide
theorem test_decode_readScratchpad : decode (.cmd 0b0100_10111110) = .ok .readScratchpad := by decide
theorem test_decode_wireSkipRom : decode (.wire 0b11001100) = .ok .wireSkipRom := by decide
theorem test_decode_wireConvertT : decode (.wire 0b01000100) = .ok .wireConvertT := by decide
theorem test_decode_wireReadScratchpad : decode (.wire 0b10111110) = .ok .wireReadScratchpad := by decide
theorem test_decode_no_wire_byte : decode (.wire 0b11001101) = .rejected .notAWireByte := by decide
theorem test_table_word_16 : decodeTableWord 16 0x201 = some (.wbit 1) := by decide
theorem test_table_word_8 : decodeTableWord 8 0x44 = some .wireConvertT := by decide
theorem test_table_word_high_bits : decodeTableWord 16 0x1201 = none := by decide

/-! ## Small states -/

/-- Inputs of a tick in which the host presents nothing. -/
def still (d : Bool) : TickIn := { rst := false, cmdValid := false, cmdWord := 0, devLow := d }

/-- Inputs of a tick in which the host presents `w`. -/
def offer (w : CmdWord) : TickIn := { rst := false, cmdValid := true, cmdWord := w, devLow := false }

/-- Inputs of a tick with reset. -/
def rstIn : TickIn := { rst := true, cmdValid := false, cmdWord := 0, devLow := false }

/-- OWT after reset, with the inputs to come. -/
def fresh (l : List TickIn) : State := { State.reset with inputs := l }

/-- OWT after reset, `w` presented, then `a` ticks in which the slave pulls and `b` in which it does not. -/
def presented (w : CmdWord) (a b : Nat) : State :=
  fresh (offer w :: (List.replicate a (still true) ++ List.replicate b (still false)))

/-- OWT inside a command. -/
def inside (c : Cmd) (st : Stage) (k : Nat) (i : BitVec 3) (sr : Byte) (l : List TickIn) : State :=
  { State.reset with
    owt := { Owt.reset with
      run := .busy, cmd := c, stage := st, prim := primFor c st, k := k, bitidx := i, sr := sr,
      presence := afterPresence st }
    inputs := l }

/-! ## One step per instruction: a field or two of the state after it -/

/-- The state of OWT after a step that answers a next state. -/
def after (s : State) : Option Owt :=
  match step s with
  | .next t => some t.owt
  | .fault _ => none
  | .refused _ => none

theorem test_reset_starts : (after (fresh [offer 0x1FF])).map (fun o => (o.cmd, o.prim, o.k)) =
    some (.reset, .reset, 0) := by decide
theorem test_wbit_loads_bit0 : (after (fresh [offer 0x2FE])).map (fun o => (o.prim, o.sr)) =
    some (.wslot, 0x00) := by decide
theorem test_rbit_starts_read : (after (fresh [offer 0x300])).map (fun o => (o.cmd, o.prim)) =
    some (.rbit, .rslot) := by decide
theorem test_wbyte_loads_byte : (after (fresh [offer 0x4B1])).map (fun o => (o.cmd, o.sr)) =
    some (.wbyte, 0xB1) := by decide
theorem test_rbyte_starts_read : (after (fresh [offer 0x500])).map (fun o => (o.cmd, o.prim)) =
    some (.rbyte, .rslot) := by decide
theorem test_rtemp_starts_reset : (after (fresh [offer 0x600])).map (fun o => (o.cmd, o.stage, o.prim)) =
    some (.rtemp, .rst1, .reset) := by decide
theorem test_skipRom_is_wbyte : (after (fresh [offer 0x4CC])).map (fun o => (o.cmd, o.sr)) =
    some (.wbyte, 0xCC) := by decide
theorem test_convertT_is_wbyte : (after (fresh [offer 0x444])).map (fun o => (o.cmd, o.sr)) =
    some (.wbyte, 0x44) := by decide
theorem test_readScratchpad_is_wbyte : (after (fresh [offer 0x4BE])).map (fun o => (o.cmd, o.sr)) =
    some (.wbyte, 0xBE) := by decide
theorem test_illegal0_flags : (after (fresh [offer 0x0AA])).map (fun o => (o.run, o.errIll, o.done)) =
    some (.idle, true, true) := by decide
theorem test_illegal7_flags : (after (fresh [offer 0x700])).map (fun o => (o.run, o.errIll, o.done)) =
    some (.idle, true, true) := by decide
theorem test_illegal8F_flags : (after (fresh [offer 0x900])).map (fun o => (o.run, o.errIll, o.done)) =
    some (.idle, true, true) := by decide

/-- The byte after the first presence (43_thermal_sequencer.md R182): stage, byte, tick. -/
theorem test_wireSkipRom_sent : ((after { inside .rtemp .rst1 959 0 0x00 [still true] with
      owt := { (inside .rtemp .rst1 959 0 0x00 []).owt with presence := true } }).map
    fun o => (o.stage, o.sr, o.k)) = some (.skip1, 0xCC, 0) := by decide
theorem test_wireConvertT_sent : (after (inside .rtemp .skip1 69 7 0x01 [still false])).map
    (fun o => (o.stage, o.sr, o.bitidx)) = some (.conv, 0x44, 0) := by decide
theorem test_wireReadScratchpad_sent : (after (inside .rtemp .skip2 69 7 0x01 [still false])).map
    (fun o => (o.stage, o.sr, o.bitidx)) = some (.rdsp, 0xBE, 0) := by decide

/-- 41_bit_slots.md R145: a pulled sample shifts in a 0 at the top, a released one a 1. -/
theorem test_read_sample_low : (after (inside .rbyte .none 12 0 0xFF [still true])).map (fun o => (o.sr, o.k)) =
    some (0x7F, 13) := by decide
theorem test_read_sample_high : (after (inside .rbyte .none 12 0 0x00 [still false])).map (fun o => (o.sr, o.k)) =
    some (0x80, 13) := by decide

/-- 60_exceptions.md R214: no slave at the first reset of RTEMP. -/
theorem test_rtemp_aborts : (after (inside .rtemp .rst1 959 0 0x00 [still false])).map
    (fun o => (o.run, o.errNp, o.done)) = some (.idle, true, true) := by decide

/-- 43_thermal_sequencer.md R190 with the reading 0x0191 of R195's table (25.0625 degrees). -/
theorem test_rtemp_reading : (after { inside .rtemp .msb 59 7 0x01 [still false] with
      owt := { (inside .rtemp .msb 59 7 0x01 []).owt with lsbTmp := 0x91 } }).map (fun o => (o.tempRaw, o.tempValid)) =
    some (0x0191, true) := by decide
theorem test_reading_sixteenths : readingSixteenths 0x0191 = 401 ∧ readingSixteenths 0xFF5E = -162 := by decide

/-- A row's word placed where the next step fetches it (log 4). -/
theorem test_placed_command_runs : (after (State.reset.withFetchWord 16 0x300)).map (fun o => o.cmd) = some .rbit := by
  decide
theorem test_placed_wire_byte_runs : (after (State.reset.withFetchWord 8 0x44)).map (fun o => (o.stage, o.sr)) =
    some (.conv, 0x44) := by decide

/-! ## Witnesses: states that meet the hypotheses of the statements -/

theorem presented_noReset {w : CmdWord} {a b n : Nat} (h : n ≤ a + b) : NoResetFor (presented w a b) n := by
  intro j hj
  simp only [inputAt, presented, fresh, Nat.add_comm 1 j, List.getElem?_cons_succ]
  by_cases hja : j < a
  · simp [List.getElem?_append_left, hja, still]
  · rw [List.getElem?_append_right (by simpa using hja), List.getElem?_replicate_of_lt (by simp; omega)]
    rfl

theorem presented_pull {w : CmdWord} {a b j : Nat} (h : j < a + b) :
    pullAt (presented w a b) (1 + j) = decide (j < a) := by
  simp only [pullAt, inputAt, presented, fresh, Nat.add_comm 1 j, List.getElem?_cons_succ]
  by_cases hja : j < a
  · simp [List.getElem?_append_left, hja, still]
  · rw [List.getElem?_append_right (by simpa using hja), List.getElem?_replicate_of_lt (by simp; omega)]
    simp [still, hja]

/-- A state after reset in which `w` is presented meets what every statement about a whole command asks. -/
theorem presented_ok (w : CmdWord) (a b : Nat) : CfgWf (presented w a b).cfg ∧ (presented w a b).owt.run = .idle ∧
    Presents (presented w a b) w := ⟨test_cfg_default_wf, rfl, rfl, rfl, rfl⟩

/-- Inside a command, every form the invariant asks. -/
theorem inside_inv {c : Cmd} {st : Stage} {k : Nat} {i : BitVec 3} (sr : Byte) (l : List TickIn) (hc : c ≠ .none)
    (hs : st ≠ .none ↔ c = .rtemp) (hk : k < primLen Cfg.default (primFor c st))
    (hi : i ≠ 0 → movesByte c st = true) : Inv (inside c st k i sr l) where
  cfgWf := test_cfg_default_wf
  reachable :=
    { idleCmd := Iff.intro (fun h => nomatch h) (fun h => absurd h hc)
      idlePrim := Iff.intro (fun h => nomatch h) fun h => by
        rw [show primFor c st = .none from h] at hk
        exact absurd hk (Nat.not_lt_zero k)
      idleCounters := fun h => nomatch h
      idleReleased := fun h => nomatch h
      busyTickInside := fun _ => hk
      stageOfRtemp := hs
      oneError := fun h => nomatch h.1
      doneIdle := fun h => nomatch h
      countsInBytes := hi }
  form :=
    { primOfStage := rfl
      busyNoError := fun _ => ⟨rfl, rfl⟩
      rtempNotValid := fun _ => rfl
      presenceKept := fun h => h
      kWidth := Nat.lt_of_lt_of_le hk (primLen_le test_cfg_default_wf _) }

/-- OWT Idle after a command, with the flags it left and the inputs to come. -/
def flagged (np ill p v : Bool) (l : List TickIn) : State :=
  { fresh l with owt := { Owt.reset with done := true, errNp := np, errIll := ill, presence := p, tempValid := v } }

theorem flagged_inv {np ill : Bool} (p v : Bool) (l : List TickIn) (h : ¬(np = true ∧ ill = true)) :
    Inv (flagged np ill p v l) where
  cfgWf := test_cfg_default_wf
  reachable :=
    { idleCmd := Iff.intro (fun _ => rfl) fun _ => rfl
      idlePrim := Iff.intro (fun _ => rfl) fun _ => rfl
      idleCounters := fun _ => ⟨rfl, rfl, rfl⟩
      idleReleased := fun _ => rfl
      busyTickInside := fun h => nomatch h
      stageOfRtemp := Iff.intro (fun h => absurd rfl h) fun h => nomatch h
      oneError := h
      doneIdle := fun _ => rfl
      countsInBytes := fun h => absurd rfl h }
  form :=
    { primOfStage := rfl
      busyNoError := fun h => nomatch h
      rtempNotValid := fun h => nomatch h
      presenceKept := fun h => nomatch h
      kWidth := Nat.two_pow_pos _ }

/-- OWT Idle after a command that ended well. -/
def rested (l : List TickIn) : State := flagged false false false false l

theorem rested_inv (l : List TickIn) : Inv (rested l) := flagged_inv _ _ _ (by decide)

theorem test_witness_ResetInputWins :
    CfgWf (fresh [rstIn]).cfg ∧ (inputNow (fresh [rstIn])).rst = true ∧
      (inputNow (setOwt State.reset.owt (passTicks 1 (fresh [rstIn, rstIn])))).rst = true ∧
      (inputNow (setOwt State.reset.owt (passTicks 1 (fresh [rstIn, still false])))).cmdValid = false ∧
      (inputNow (setOwt State.reset.owt (passTicks 1 (fresh [rstIn, offer 0x100])))).cmdValid = true ∧
      decode (.cmd (inputNow (passTicks 1 (fresh [rstIn, offer 0x100]))).cmdWord) = .ok .reset := by decide

theorem test_witness_IllFormedConfigurationRefused :
    ¬CfgWf { fresh [] with cfg := { Cfg.default with tRstl := 479 } }.cfg := by decide

theorem test_witness_StepRunsPresentedCommand :
    CfgWf (fresh [offer 0x600]).cfg ∧ (inputNow (fresh [offer 0x600])).rst = false ∧
      (fresh [offer 0x600]).owt.run = .idle ∧ (inputNow (fresh [offer 0x600])).cmdValid = true ∧
      decode (.cmd (inputNow (fresh [offer 0x600])).cmdWord) = .ok .rtemp := by decide

theorem test_witness_StepRunsSequencerByte :
    CfgWf (inside .rtemp .skip1 69 7 0 [still false]).cfg ∧
      (inputNow (inside .rtemp .skip1 69 7 0 [still false])).rst = false ∧
      (∃ o, busyTick Cfg.default (owIn (inside .rtemp .skip1 69 7 0 [still false]))
        (inside .rtemp .skip1 69 7 0 [still false]).owt = .send o convertTByte) ∧
      decode (.wire convertTByte) = .ok .wireConvertT := by
  refine ⟨by decide, by decide, ?_, by decide⟩
  exact ⟨shiftSlot (inside .rtemp .skip1 69 7 0 []).owt, by decide⟩

theorem test_witness_IdleHoldsWithoutCommand :
    CfgWf (fresh [still true]).cfg ∧ (inputNow (fresh [still true])).rst = false ∧
      (fresh [still true]).owt.run = .idle ∧ (inputNow (fresh [still true])).cmdValid = false := by decide

theorem test_witness_StepKeepsConfiguration : ∃ t, step (fresh [offer 0x100]) = .next t := ⟨_, rfl⟩

/-- The accepts ask for an Idle state; each opcode for a word that has it. -/
theorem test_witness_accepts : State.reset.owt.run = .idle ∧ opField 0x1A5 = 0x1 ∧ opField 0x2FE = 0x2 ∧
    opField 0x3FF = 0x3 ∧ decode (.cmd (0x4#4 ++ (0xCC : Byte))) = .ok .skipRom ∧ opField 0x5AA = 0x5 ∧ opField 0x6FF = 0x6 := by
  decide

theorem test_witness_IllegalCommandAction : State.reset.owt.run = .idle ∧ opField 0x0FF = 0x0 ∧ opField 0x7FF = 0x7 ∧
    0x8 ≤ (opField 0x8FF).toNat ∧ 0x8 ≤ (opField 0xFFF).toNat ∧
    ∃ t, exec (.illegal8F 0x8) State.reset = .next t :=
  ⟨by decide, by decide, by decide, by decide, by decide, _, rfl⟩

theorem test_witness_WireBytesStartTheirStage :
    ∀ st : Stage, st = .rst1 ∨ st = .rst2 ∨ st = .skip1 ∨ st = .skip2 →
      (inside .rtemp st 0 0 0 []).owt.run = .busy ∧ (inside .rtemp st 0 0 0 []).owt.cmd = .rtemp ∧
        (inside .rtemp st 0 0 0 []).owt.stage = st := fun _ _ => ⟨rfl, rfl, rfl⟩

theorem test_witness_WireBytesStopElsewhere : State.reset.owt.stage ≠ .rst1 ∧ State.reset.owt.stage ≠ .rst2 ∧
    State.reset.owt.stage ≠ .skip1 ∧ State.reset.owt.stage ≠ .skip2 := by decide

theorem test_witness_EveryCommandWordDecodes : opField 0x000 = 0x0 ∧ opField 0x700 = 0x7 ∧
    0x8 ≤ (opField 0x800).toNat ∧ opField 0xF00 = 0xF := by decide

theorem test_witness_DecodeEncodeRoundTrip : WellFormed (.wbyte 0xCD) = true ∧ (0xCD : Byte) ≠ 0xCC ∧
    (0xCD : Byte) ≠ 0x44 ∧ (0xCD : Byte) ≠ 0xBE ∧ decode (encode (.wbyte 0xCC)) = .ok .skipRom := by decide

theorem test_witness_IgnoredOperandBits : opField 0x2FE = opField 0x200 ∧
    dField 0x2FE &&& usedBits 0x2FE = dField 0x200 &&& usedBits 0x2FE ∧ (0x2FE : CmdWord) ≠ 0x200 ∧
    decode (.cmd 0x2FE) = .ok (.wbit 0) := by decide

theorem test_witness_PrimitiveTable : (0x01 : Byte).getLsbD 0 = true ∧ (0xFE : Byte).getLsbD 0 = false ∧
    (inside .reset .none 550 0 0 []).owt.prim = .reset ∧ (inside .rbit .none 12 0 0 []).owt.prim = .rslot := by decide

theorem test_witness_LineDriveRule :
    (ports Cfg.default (inside .wbit .none 5 0 0x01 []).owt).owOe = true ∧
      (ports Cfg.default (inside .wbit .none 6 0 0x01 []).owt).owOe = false := by decide

theorem test_witness_IdleReleasesTheLine : (fresh [still true]).owt.run = .idle ∧
    owIn (fresh [still true]) = .L ∧ owIn (fresh [still false]) = .H := by decide

/-- Tick 0 of a reset: neither its sample tick nor its last. -/
theorem test_witness_BusyTickCounts : Inv (inside .reset .none 0 0 0 [still false]) ∧
    (inside .reset .none 0 0 0 [still false]).owt.run = .busy ∧
    (inputNow (inside .reset .none 0 0 0 [still false])).rst = false ∧
    ¬AtSample (inside .reset .none 0 0 0 [still false]) ∧ ¬AtPrimEnd (inside .reset .none 0 0 0 [still false]) :=
  ⟨inside_inv _ _ (by decide) (by decide) (by decide) (by decide), rfl, rfl, by unfold AtSample; decide,
    by unfold AtPrimEnd; decide⟩

theorem test_witness_SampleTickLatches_reset : Inv (inside .rtemp .rst1 550 0 0 [still true]) ∧
    (inputNow (inside .rtemp .rst1 550 0 0 [still true])).rst = false ∧
    AtSample (inside .rtemp .rst1 550 0 0 [still true]) ∧ ¬AtPrimEnd (inside .rtemp .rst1 550 0 0 [still true]) ∧
    (inside .rtemp .rst1 550 0 0 [still true]).owt.prim = .reset :=
  ⟨inside_inv _ _ (by decide) (by decide) (by decide) (by decide), rfl, by unfold AtSample; decide,
    by unfold AtPrimEnd; decide, rfl⟩

theorem test_witness_SampleTickLatches_read : Inv (inside .rbyte .none 12 3 0 [still true]) ∧
    (inputNow (inside .rbyte .none 12 3 0 [still true])).rst = false ∧
    AtSample (inside .rbyte .none 12 3 0 [still true]) ∧ ¬AtPrimEnd (inside .rbyte .none 12 3 0 [still true]) ∧
    (inside .rbyte .none 12 3 0 [still true]).owt.prim = .rslot :=
  ⟨inside_inv _ _ (by decide) (by decide) (by decide) (by decide), rfl, by unfold AtSample; decide,
    by unfold AtPrimEnd; decide, rfl⟩

theorem test_witness_LineReadOnlyAtSamples : CfgWf (inside .rbit .none 12 0 0 [still false]).cfg ∧
    AtSample (inside .rbit .none 12 0 0 [still false]) ∧ ¬AtSample (inside .rbit .none 11 0 0 [still false]) :=
  ⟨by decide, by unfold AtSample; decide, by unfold AtSample; decide⟩

theorem test_witness_BusyIgnoresThePort : (inside .wbyte .none 0 0 0 []).owt.run = .busy := rfl

/-- Two environments that differ off the sample tick: one tick of a reset. -/
theorem test_witness_EnvironmentSeenOnlyAtSamples :
    (inside .reset .none 5 0 0 [still true]).owt = (inside .reset .none 5 0 0 [still false]).owt ∧
      (∀ j, j < 1 → (inputAt (inside .reset .none 5 0 0 [still true]) j).rst =
          (inputAt (inside .reset .none 5 0 0 [still false]) j).rst ∧
        (inputAt (inside .reset .none 5 0 0 [still true]) j).cmdValid =
          (inputAt (inside .reset .none 5 0 0 [still false]) j).cmdValid ∧
        (inputAt (inside .reset .none 5 0 0 [still true]) j).cmdWord =
          (inputAt (inside .reset .none 5 0 0 [still false]) j).cmdWord) ∧
      (∀ j, j < 1 → ∀ u, runTicks j (inside .reset .none 5 0 0 [still true]) = .next u → AtSample u →
        pullAt (inside .reset .none 5 0 0 [still true]) j = pullAt (inside .reset .none 5 0 0 [still false]) j) ∧
      ∃ t, runTicks 1 (inside .reset .none 5 0 0 [still true]) = .next t := by
  refine ⟨rfl, fun j hj => ?_, fun j hj u hu ha => ?_, _, rfl⟩
  · obtain rfl : j = 0 := by omega
    exact ⟨rfl, rfl, rfl⟩
  · obtain rfl : j = 0 := by omega
    cases hu
    exact absurd ha (by unfold AtSample; decide)

/-- The last tick of a stage that sends or reads a byte, in its eighth slot. -/
theorem test_witness_TemperatureStageTransitions_bytes (st : Stage)
    (h : st = .skip1 ∨ st = .conv ∨ st = .skip2 ∨ st = .rdsp ∨ st = .lsb ∨ st = .msb) :
    Inv (inside .rtemp st (primLen Cfg.default (primFor .rtemp st) - 1) 7 0 [still false]) ∧
      AtPrimEnd (inside .rtemp st (primLen Cfg.default (primFor .rtemp st) - 1) 7 0 [still false]) ∧
      movesByte .rtemp st = true := by
  refine ⟨inside_inv _ _ (by decide) ?_ ?_ ?_, ⟨rfl, rfl⟩, ?_⟩ <;>
    rcases h with h | h | h | h | h | h <;> subst h <;> decide

/-- The same in its first slot, which another follows. -/
theorem test_witness_TemperatureStageTransitions_next_slot :
    Inv (inside .rtemp .lsb 59 0 0 [still false]) ∧ AtPrimEnd (inside .rtemp .lsb 59 0 0 [still false]) ∧
      (inside .rtemp .lsb 59 0 0 [still false]).owt.bitidx ≠ 7 :=
  ⟨inside_inv _ _ (by decide) (by decide) (by decide) (by decide), ⟨rfl, rfl⟩, by decide⟩

/-- The last tick of the wait, and of the second reset with the presence flag down. -/
theorem test_witness_TemperatureStageTransitions_wait_and_reset :
    Inv (inside .rtemp .wait 749999 0 0 [still false]) ∧ AtPrimEnd (inside .rtemp .wait 749999 0 0 [still false]) ∧
      Inv (inside .rtemp .rst2 959 0 0 [still false]) ∧ AtPrimEnd (inside .rtemp .rst2 959 0 0 [still false]) ∧
      (inside .rtemp .rst2 959 0 0 [still false]).owt.presence = false :=
  ⟨inside_inv _ _ (by decide) (by decide) (by decide) (by decide), ⟨rfl, by decide⟩,
    inside_inv _ _ (by decide) (by decide) (by decide) (by decide), ⟨rfl, rfl⟩, rfl⟩

/-- The last tick of the first reset with the presence flag up. -/
theorem test_witness_TemperatureStageTransitions_present :
    AtPrimEnd (setOwt { (inside .rtemp .rst1 959 0 0 []).owt with presence := true } (inside .rtemp .rst1 959 0 0 [still true])) ∧
      Inv (setOwt { (inside .rtemp .rst1 959 0 0 []).owt with presence := true }
        (inside .rtemp .rst1 959 0 0 [still true])) := by
  have h := inside_inv (c := .rtemp) (st := .rst1) (k := 959) (i := 0) 0 [still true] (by decide) (by decide)
    (by decide) (by decide)
  refine ⟨⟨rfl, rfl⟩, h.cfgWf, ?_, ?_⟩
  · obtain ⟨h1, h2, h3, h4, h5, h6, h7, h8, h9⟩ := h.reachable
    exact ⟨h1, h2, h3, h4, h5, h6, h7, h8, h9⟩
  · obtain ⟨h1, h2, h3, h4, h5⟩ := h.form
    exact ⟨h1, h2, h3, fun _ => rfl, h5⟩

theorem test_witness_InvariantKept : Inv (rested [offer 0x600]) ∧ ∃ t, step (rested [offer 0x600]) = .next t :=
  ⟨rested_inv _, _, rfl⟩

theorem test_witness_StepNeverStops : Inv (inside .rtemp .wait 0 0 0 []) :=
  inside_inv _ _ (by decide) (by decide) (by decide) (by decide)

theorem test_witness_ControlTransfersClosed :
    Inv (inside .rbyte .none 59 7 0x2D [still true]) ∧
      ∃ t, step (inside .rbyte .none 59 7 0x2D [still true]) = .next t :=
  ⟨inside_inv _ _ (by decide) (by decide) (by decide) (by decide), _, rfl⟩

/-- The last tick of RBYTE writes `rdata`; of ST_LSB, `lsb_tmp`; a write accept, `sr`. -/
theorem test_witness_DataRegisterWriters :
    Inv (inside .rbyte .none 59 7 0x2D [still true]) ∧ (inputNow (inside .rbyte .none 59 7 0x2D [still true])).rst = false ∧
      (after (inside .rbyte .none 59 7 0x2D [still true])).map Owt.rdata = some 0x2D ∧
      (after (inside .rtemp .lsb 59 7 0x2D [still true])).map Owt.lsbTmp = some 0x2D ∧
      (after (inside .rtemp .msb 59 7 0x2D [still true])).map Owt.tempRaw = some 0x2D00 ∧
      (after (rested [offer 0x4B1])).map Owt.sr = some 0xB1 :=
  ⟨inside_inv _ _ (by decide) (by decide) (by decide) (by decide), by decide, by decide, by decide, by decide, by decide⟩

/-- `done` set and cleared, `presence` set, `temp_valid` set. -/
theorem test_witness_FlagWriters :
    Inv (inside .wbit .none 69 0 0 [still true]) ∧ (after (inside .wbit .none 69 0 0 [still true])).map Owt.done = some true ∧
      Inv (rested [offer 0x200]) ∧ (after (rested [offer 0x200])).map Owt.done = some false ∧
      (after (inside .reset .none 550 0 0 [still true])).map Owt.presence = some true ∧
      (after (inside .rtemp .skip1 0 0 0 [rstIn])).map Owt.presence = some false ∧
      (after (inside .rtemp .msb 59 7 0 [still true])).map Owt.tempValid = some true :=
  ⟨inside_inv _ _ (by decide) (by decide) (by decide) (by decide), by decide, rested_inv _, by decide, by decide,
    by decide, by decide⟩

/-- `presence`, `err_np`, `err_ill` and `temp_valid` cleared. -/
theorem test_witness_FlagWriters_cleared :
    Inv (flagged true false false true [offer 0x600]) ∧
      (after (flagged true false false true [offer 0x600])).map Owt.errNp = some false ∧
      (after (flagged true false false true [offer 0x600])).map Owt.tempValid = some false ∧
      Inv (flagged false true true false [offer 0x100]) ∧
      (after (flagged false true true false [offer 0x100])).map Owt.errIll = some false ∧
      (after (flagged false true true false [offer 0x100])).map Owt.presence = some false :=
  ⟨flagged_inv _ _ _ (by decide), by decide, by decide, flagged_inv _ _ _ (by decide), by decide, by decide⟩

/-- `err_np` set at the end of a reset with no presence, `err_ill` by an illegal word. -/
theorem test_witness_FlagWriters_errors :
    Inv (inside .rtemp .rst1 959 0 0 [still false]) ∧
      (inside .rtemp .rst1 959 0 0 [still false]).owt.errNp = false ∧
      (after (inside .rtemp .rst1 959 0 0 [still false])).map Owt.errNp = some true ∧
      Inv (rested [offer 0x800]) ∧ (rested [offer 0x800]).owt.errIll = false ∧
      (after (rested [offer 0x800])).map Owt.errIll = some true :=
  ⟨inside_inv _ _ (by decide) (by decide) (by decide) (by decide), by decide, by decide, rested_inv _, by decide,
    by decide⟩

theorem test_witness_NotPresentRaisedExactly :
    Inv (inside .reset .none 959 0 0 [still true]) ∧ (inputNow (inside .reset .none 959 0 0 [still true])).rst = false ∧
      (after (inside .reset .none 959 0 0 [still true])).map Owt.errNp = some true ∧
      AtSample (inside .rtemp .rst2 550 0 0 [still false]) :=
  ⟨inside_inv _ _ (by decide) (by decide) (by decide) (by decide), by decide, by decide, by unfold AtSample; decide⟩

theorem test_witness_IllegalCommandRaisedExactly :
    Inv (rested [offer 0xF00]) ∧ (inputNow (rested [offer 0xF00])).rst = false ∧
      (rested [offer 0xF00]).owt.errIll = false ∧ (after (rested [offer 0xF00])).map Owt.errIll = some true :=
  ⟨rested_inv _, by decide, by decide, by decide⟩

theorem test_witness_ErrorsLeaveIdle :
    Inv (rested [offer 0x700, offer 0x100]) ∧ (∃ t, step (rested [offer 0x700, offer 0x100]) = .next t ∧
      t.owt.errIll = true ∧ (inputNow t).rst = false ∧ (inputNow t).cmdValid = true ∧
      legalOp (opField (inputNow t).cmdWord) = true) :=
  ⟨rested_inv _, _, rfl, by decide⟩

theorem test_witness_ResetCutsACommand :
    Inv (inside .rtemp .wait 5 0 0 [rstIn]) ∧ (inside .rtemp .wait 5 0 0 [rstIn]).owt.run = .busy ∧
      (inputNow (inside .rtemp .wait 5 0 0 [rstIn])).rst = true :=
  ⟨inside_inv _ _ (by decide) (by decide) (by decide) (by decide), rfl, rfl⟩

theorem test_witness_ResetCommandRun : opField 0x100 = 0x1 ∧ CfgWf (presented 0x100 960 0).cfg ∧
    Presents (presented 0x100 960 0) 0x100 ∧ NoResetFor (presented 0x100 960 0) (lReset Cfg.default) :=
  ⟨by decide, (presented_ok _ _ _).1, (presented_ok _ _ _).2.2, presented_noReset (by decide)⟩

theorem test_witness_WriteBitRun : opField 0x201 = 0x2 ∧ CfgWf (presented 0x201 70 0).cfg ∧
    Presents (presented 0x201 70 0) 0x201 ∧ NoResetFor (presented 0x201 70 0) (lWslot Cfg.default) :=
  ⟨by decide, (presented_ok _ _ _).1, (presented_ok _ _ _).2.2, presented_noReset (by decide)⟩

theorem test_witness_ReadBitRun : opField 0x300 = 0x3 ∧ CfgWf (presented 0x300 60 0).cfg ∧
    Presents (presented 0x300 60 0) 0x300 ∧ NoResetFor (presented 0x300 60 0) (lRslot Cfg.default) :=
  ⟨by decide, (presented_ok _ _ _).1, (presented_ok _ _ _).2.2, presented_noReset (by decide)⟩

theorem test_witness_WriteByteRun : opField 0x4B1 = 0x4 ∧ CfgWf (presented 0x4B1 560 0).cfg ∧
    Presents (presented 0x4B1 560 0) 0x4B1 ∧ NoResetFor (presented 0x4B1 560 0) (8 * lWslot Cfg.default) :=
  ⟨by decide, (presented_ok _ _ _).1, (presented_ok _ _ _).2.2, presented_noReset (by decide)⟩

theorem test_witness_ReadByteRun : opField 0x500 = 0x5 ∧ CfgWf (presented 0x500 480 0).cfg ∧
    Presents (presented 0x500 480 0) 0x500 ∧ NoResetFor (presented 0x500 480 0) (8 * lRslot Cfg.default) :=
  ⟨by decide, (presented_ok _ _ _).1, (presented_ok _ _ _).2.2, presented_noReset (by decide)⟩

/-- The slave answers both resets, only the first, or none: the three outcomes of RTEMP. -/
theorem test_witness_TemperatureRun (a b : Nat)
    (h : (a, b) = (755120, 0) ∨ (a, b) = (960, 752080) ∨ (a, b) = (0, 960)) :
    opField 0x600 = 0x6 ∧ CfgWf (presented 0x600 a b).cfg ∧ Presents (presented 0x600 a b) 0x600 ∧
      NoResetFor (presented 0x600 a b) (busyTicks Cfg.default .rtemp (decide (550 < a)) (decide (752630 < a))) ∧
      pullAt (presented 0x600 a b) (1 + 550) = decide (550 < a) := by
  refine ⟨by decide, (presented_ok _ _ _).1, (presented_ok _ _ _).2.2, presented_noReset ?_, presented_pull ?_⟩ <;>
    rcases h with h | h | h <;> cases h <;> decide

/-- The second presence sample of an RTEMP, in the two outcomes that reach it. -/
theorem test_witness_TemperatureRun_second (a b : Nat) (h : (a, b) = (755120, 0) ∨ (a, b) = (960, 752080)) :
    pullAt (presented 0x600 a b) (1 + 752630) = decide (752630 < a) := by
  refine presented_pull ?_
  rcases h with h | h <;> cases h <;> decide

theorem test_witness_CommandsDriveTheirFrames : CfgWf (presented 0x4BE 560 0).cfg ∧
    (presented 0x4BE 560 0).owt.run = .idle ∧ Presents (presented 0x4BE 560 0) 0x4BE ∧
    decode (.cmd 0x4BE) = .ok .readScratchpad ∧
    NoResetFor (presented 0x4BE 560 0) (busyTicks Cfg.default .readScratchpad true false) :=
  ⟨(presented_ok _ _ _).1, rfl, (presented_ok _ _ _).2.2, by decide, presented_noReset (by decide)⟩

/-- A word of every row of the command port. -/
def portRows : List (CmdWord × Instr) :=
  [(0x0AA, .illegal0), (0x1FF, .reset), (0x201, .wbit 1), (0x3FF, .rbit), (0x4B1, .wbyte 0xB1), (0x4CC, .skipRom),
    (0x444, .convertT), (0x4BE, .readScratchpad), (0x500, .rbyte), (0x6A5, .rtemp), (0x700, .illegal7),
    (0xF00, .illegal8F 0xF)]

theorem portRows_busy : ∀ r ∈ portRows, decode (.cmd r.1) = .ok r.2 ∧
    ∀ p1 p2, busyTicks Cfg.default r.2 p1 p2 ≤ 755120 := by decide

/-- The same for a word of every row, whatever the slave answers. -/
theorem test_witness_CommandsDriveTheirFrames_rows {r : CmdWord × Instr} (h : r ∈ portRows) :
    CfgWf (presented r.1 755120 0).cfg ∧ (presented r.1 755120 0).owt.run = .idle ∧
      Presents (presented r.1 755120 0) r.1 ∧ decode (.cmd r.1) = .ok r.2 ∧
      ∀ p1 p2, NoResetFor (presented r.1 755120 0) (busyTicks Cfg.default r.2 p1 p2) :=
  ⟨(presented_ok _ _ _).1, rfl, (presented_ok _ _ _).2.2, (portRows_busy r h).1,
    fun p1 p2 => presented_noReset ((portRows_busy r h).2 p1 p2)⟩

theorem test_witness_EveryCommandEnds : ∃ l, Inv (inside .rtemp .wait 5 0 0 l) ∧
    (inside .rtemp .wait 5 0 0 l).owt.run = .busy ∧
    ∀ j, j < busyTicks Cfg.default .rtemp true true → (inputAt (inside .rtemp .wait 5 0 0 l) j).rst = false := by
  refine ⟨List.replicate (busyTicks Cfg.default .rtemp true true) (still true),
    inside_inv _ _ (by decide) (by decide) (by decide) (by decide), rfl, fun j hj => ?_⟩
  simp only [inputAt, inside]
  rw [List.getElem?_replicate_of_lt hj]
  rfl

/-! ### The loopback (42_byte_serialization.md R167): WBYTE 0xA5, three idle ticks, RBYTE

The slave does not pull until the read slots, and pulls in all of a read slot whose bit is 0. -/

/-- The word `w`, `a` quiet ticks, the word `w'`, then `b` ticks in which the slave pulls as `f` says. -/
def twoWords (w w' : CmdWord) (a b : Nat) (f : Nat → Bool) : State :=
  fresh (offer w :: (List.replicate a (still false) ++ offer w' :: (List.range b).map fun j => still (f j)))

section
variable {w w' : CmdWord} {a b : Nat} {f : Nat → Bool}

theorem twoWords_first {j : Nat} (h : j < a) : inputAt (twoWords w w' a b f) (1 + j) = still false := by
  simp only [inputAt, twoWords, fresh, Nat.add_comm 1 j, List.getElem?_cons_succ]
  rw [List.getElem?_append_left (by simpa using h), List.getElem?_replicate_of_lt h]
  rfl

theorem twoWords_second : inputAt (twoWords w w' a b f) (1 + a) = offer w' := by
  simp only [inputAt, twoWords, fresh, Nat.add_comm 1 a, List.getElem?_cons_succ]
  rw [List.getElem?_append_right (by simp)]
  simp

theorem twoWords_last {j : Nat} (h : j < b) : inputAt (twoWords w w' a b f) (1 + a + 1 + j) = still (f j) := by
  rw [show 1 + a + 1 + j = (a + (j + 1)) + 1 by omega]
  simp only [inputAt, twoWords, fresh, List.getElem?_cons_succ]
  rw [List.getElem?_append_right (by simp), List.length_replicate, Nat.add_sub_cancel_left, List.getElem?_cons_succ,
    List.getElem?_map, List.getElem?_range h]
  rfl

end

/-- The environment of the loopback. -/
def loopEnv : State := twoWords 0x4A5 0x500 563 480 fun j => !(0xA5 : Byte).getLsbD (j / 60)

/-- After the accept, the slots of the byte. -/
def loopSlot (i : Nat) : State :=
  setOwt { acceptWbyte 0xA5 Owt.reset with sr := 0xA5 >>> i, bitidx := BitVec.ofNat 3 i }
    (passTicks (1 + i * 70) loopEnv)

theorem loopSlot_reached {i : Nat} (h : i < 8) : runTicks (1 + i * 70) loopEnv = .next (loopSlot i) := by
  have h0 : runTicks 1 loopEnv = .next (loopSlot 0) := rfl
  rw [runTicks_add h0]
  have hs := runTicks_slots (s := loopSlot 0) (f := fun i => 0xA5 >>> i) test_cfg_default_wf rfl rfl rfl rfl rfl rfl
    (fun i hi => by interval_cases i <;> rfl) h
    (fun j hj => by
      rw [loopSlot, inputAt_setOwt, inputAt_passTicks]
      exact congrArg TickIn.rst (twoWords_first (j := j)
        (Nat.lt_of_lt_of_le hj (Nat.le_trans (Nat.mul_le_mul_right 70 (show i ≤ 8 by omega)) (by decide)))))
  rw [show primLen (loopSlot 0).cfg (loopSlot 0).owt.prim = 70 from rfl] at hs
  rw [hs, loopSlot, loopSlot, passTicks_setOwt, setOwt_setOwt, passTicks_add]
  rfl

/-- At tick 6 of write slot `i` the line is H for a 1 and L for a 0. -/
theorem loopSlot_level {i : Nat} (h : i < 8) {u : State} (hu : runTicks (1 + i * 70 + 6) loopEnv = .next u) :
    (inputNow u).devLow = false ∧ decide (owIn u = .L) = !(0xA5 : Byte).getLsbD i := by
  rw [runTicks_add (loopSlot_reached h)] at hu
  have hin : ∀ j, j < 70 → inputAt (loopSlot i) j = still false := fun j hj => by
    rw [loopSlot, inputAt_setOwt, inputAt_passTicks, Nat.add_assoc]
    exact twoWords_first (by omega)
  rw [runTicks_primitive (s := loopSlot i) test_cfg_default_wf rfl (show Prim.wslot ≠ .none by decide) rfl (n := 6)
    (show 6 < primLen Cfg.default .wslot by decide)
    (fun j hj => congrArg TickIn.rst (hin j (by omega)))] at hu
  cases hu
  have hd : (inputNow (setOwt (setK 6 (sampledBy (loopSlot i) 6 (loopSlot i).owt)) (passTicks 6 (loopSlot i)))).devLow
      = false := by
    rw [inputNow_setOwt, inputNow_passTicks, hin 6 (by omega)]
    rfl
  refine ⟨hd, ?_⟩
  rw [owIn, hd]
  interval_cases i <;> rfl

/-- The byte ends Idle. -/
theorem loopEnv_written : runTicks (1 + 8 * 70) loopEnv =
    .next (setOwt (complete (shiftSlot (setK 69 (loopSlot 7).owt))) (passTicks 561 loopEnv)) := by
  rw [show 1 + 8 * 70 = 1 + 7 * 70 + 70 from rfl, runTicks_add (loopSlot_reached (i := 7) (by omega))]
  have := runTicks_primitive_end (s := loopSlot 7) test_cfg_default_wf rfl (by decide) rfl (fun j hj => by
    rw [loopSlot, inputAt_setOwt, inputAt_passTicks, Nat.add_assoc]
    exact congrArg TickIn.rst (twoWords_first (j := 7 * 70 + j) (by
      have : j < 70 := hj
      omega)))
  rw [show primLen (loopSlot 7).cfg (loopSlot 7).owt.prim = 70 from rfl] at this
  rw [this, show passTicks 70 (loopSlot 7) = setOwt (loopSlot 7).owt (passTicks (1 + 7 * 70 + 70) loopEnv) by
    rw [loopSlot, passTicks_setOwt, passTicks_add]
    rfl, show endPrim (setK (70 - 1) (sampledBy (loopSlot 7) 70 (loopSlot 7).owt)) =
      .goto (complete (shiftSlot (setK 69 (loopSlot 7).owt))) from rfl, finish_goto, setOwt_setOwt]

theorem test_witness_LoopbackReadsBackTheByte : ∃ t, CfgWf loopEnv.cfg ∧ loopEnv.owt.run = .idle ∧
    Presents loopEnv (0x4#4 ++ (0xA5 : Byte)) ∧ NoResetFor loopEnv (8 * lWslot loopEnv.cfg + 3) ∧
    (∀ j, j < 3 → (inputAt loopEnv (1 + 8 * lWslot loopEnv.cfg + j)).cmdValid = false) ∧
    runTicks (1 + 8 * lWslot loopEnv.cfg + 3) loopEnv = .next t ∧ opField 0x500 = 0x5 ∧ Presents t 0x500 ∧
    NoResetFor t (8 * lRslot loopEnv.cfg) ∧ (loopEnv.cfg.tW1l ≤ 6 ∧ 6 < loopEnv.cfg.tSlot) ∧
    ∀ i, i < 8 → ∀ u, runTicks (1 + i * lWslot loopEnv.cfg + 6) loopEnv = .next u →
      (inputNow u).devLow = false ∧
        pullAt t (1 + i * lRslot loopEnv.cfg + loopEnv.cfg.tRdl + loopEnv.cfg.tRds) = decide (owIn u = .L) := by
  have hq : ∀ j, j < 3 → inputAt loopEnv (561 + j) = still false := fun j hj => by
    rw [show 561 + j = 1 + (560 + j) by omega]
    exact twoWords_first (by omega)
  have hend := (runTicks_add (n := 3) loopEnv_written).trans (runTicks_idle (s := setOwt
    (complete (shiftSlot (setK 69 (loopSlot 7).owt))) (passTicks 561 loopEnv)) test_cfg_default_wf rfl fun j hj => by
      rw [inputAt_setOwt, inputAt_passTicks, hq j hj]
      exact ⟨rfl, rfl⟩)
  rw [passTicks_setOwt, passTicks_add] at hend
  refine ⟨_, test_cfg_default_wf, rfl, ⟨rfl, rfl, rfl⟩, fun j hj => ?_, fun j hj => ?_, hend, by decide, ?_,
    fun j hj => ?_, by decide, fun i hi u hu => ?_⟩
  · exact congrArg TickIn.rst (twoWords_first hj)
  · exact congrArg TickIn.cmdValid (hq j hj)
  · rw [Presents, inputNow_setOwt, inputNow_passTicks,
      show inputAt loopEnv (561 + 3) = offer 0x500 from twoWords_second]
    exact ⟨rfl, rfl, rfl⟩
  · rw [inputAt_setOwt, inputAt_passTicks, ← Nat.add_assoc]
    exact congrArg TickIn.rst (twoWords_last hj)
  · obtain ⟨h1, h2⟩ := loopSlot_level hi hu
    refine ⟨h1, ?_⟩
    have e : lRslot loopEnv.cfg = 60 ∧ loopEnv.cfg.tRdl = 2 ∧ loopEnv.cfg.tRds = 10 := ⟨rfl, rfl, rfl⟩
    rw [h2, pullAt, inputAt_setOwt, inputAt_passTicks, e.1, e.2.1, e.2.2,
      show 561 + 3 + (1 + i * 60 + 2 + 10) = 1 + 563 + 1 + (i * 60 + 12) by omega,
      show inputAt loopEnv (1 + 563 + 1 + (i * 60 + 12)) = still (!(0xA5 : Byte).getLsbD ((i * 60 + 12) / 60)) from
        twoWords_last (by omega), show (i * 60 + 12) / 60 = i by omega]
    rfl

end Sys2Proof.Tests
end

section
/-! Proofs about the configuration and its lengths (00_scope.md R8, R9). -/

namespace Sys2Proof.Proofs

open Sys2Proof.Machine

/-- 00_scope.md R9, the sums. -/
theorem derivedLengths_eq (c : Cfg) :
    lReset c = c.tRstl + c.tRsth ∧ lWslot c = c.tSlot + c.tRec ∧ lRslot c = c.tSlot ∧ lWait c = c.tConv :=
  ⟨rfl, rfl, rfl, rfl⟩

/-- The lengths inside `CfgWf` are R9's sums of fields, so `CfgWf` bounds fields only, as the R8 table does. -/
theorem cfgWf_iff_bounds (c : Cfg) : CfgWf c ↔
    c.tRstl ≥ 480 ∧ 60 ≤ c.tPds ∧ c.tPds ≤ 239 ∧ c.tPds < c.tRsth ∧ 1 ≤ c.tW1l ∧ c.tW1l ≤ 14 ∧
    c.tW1l < c.tSlot ∧ c.tRdl + c.tRds < c.tSlot ∧ c.tRec ≥ 1 ∧ 1 ≤ c.tRdl ∧ c.tRdl ≤ 2 ∧
    1 ≤ c.tRds ∧ c.tRds ≤ 14 ∧ c.tRdl + c.tRds ≤ 15 ∧ c.tConv ≥ 750000 ∧
    c.tRstl + c.tRsth ≤ 2 ^ c.tickw ∧ c.tSlot + c.tRec ≤ 2 ^ c.tickw ∧ c.tSlot ≤ 2 ^ c.tickw ∧
    c.tConv ≤ 2 ^ c.tickw := by
  obtain ⟨hReset, hWslot, hRslot, hWait⟩ := derivedLengths_eq c
  simp only [CfgWf, hReset, hWslot, hRslot, hWait, ge_iff_le, and_assoc]

/-- Settles O3: the lengths and defaults by evaluation, well-formedness by `cfgWf_iff_bounds`, the refusal by
`step_illFormed`. -/
theorem illFormedConfigurationRefused : Obligations.IllFormedConfigurationRefused := by
  have defaultLengths : lReset Cfg.default = 960 ∧ lWslot Cfg.default = 70 ∧ lRslot Cfg.default = 60 ∧
      lWait Cfg.default = 750000 := ⟨rfl, rfl, rfl, rfl⟩
  have defaultWf : CfgWf Cfg.default := by decide
  exact ⟨derivedLengths_eq, defaultLengths, rfl, defaultWf, cfgWf_iff_bounds,
    fun _ hIll => step_illFormed hIll⟩

end Sys2Proof.Proofs
end

section
/-! The two control forms of 10_state.md R40, Idle and Busy, and the moves of a step between them. -/

namespace Sys2Proof.Proofs

open Sys2Proof.Machine

/-! ## The frame of the sample: `presence` and `sr` apart, it writes nothing -/

section
variable (c : Cfg) (l : Level) (o : Owt)

@[simp] theorem sampled_run : (sampled c l o).run = o.run := by
  obtain ⟨_, _, e⟩ := sampled_frame c l o
  rw [e]

@[simp] theorem sampled_cmd : (sampled c l o).cmd = o.cmd := by
  obtain ⟨_, _, e⟩ := sampled_frame c l o
  rw [e]

@[simp] theorem sampled_stage : (sampled c l o).stage = o.stage := by
  obtain ⟨_, _, e⟩ := sampled_frame c l o
  rw [e]

@[simp] theorem sampled_prim : (sampled c l o).prim = o.prim := by
  obtain ⟨_, _, e⟩ := sampled_frame c l o
  rw [e]

@[simp] theorem sampled_k : (sampled c l o).k = o.k := by
  obtain ⟨_, _, e⟩ := sampled_frame c l o
  rw [e]

@[simp] theorem sampled_bitidx : (sampled c l o).bitidx = o.bitidx := by
  obtain ⟨_, _, e⟩ := sampled_frame c l o
  rw [e]

@[simp] theorem sampled_lsbTmp : (sampled c l o).lsbTmp = o.lsbTmp := by
  obtain ⟨_, _, e⟩ := sampled_frame c l o
  rw [e]

@[simp] theorem sampled_rdata : (sampled c l o).rdata = o.rdata := by
  obtain ⟨_, _, e⟩ := sampled_frame c l o
  rw [e]

@[simp] theorem sampled_tempRaw : (sampled c l o).tempRaw = o.tempRaw := by
  obtain ⟨_, _, e⟩ := sampled_frame c l o
  rw [e]

@[simp] theorem sampled_done : (sampled c l o).done = o.done := by
  obtain ⟨_, _, e⟩ := sampled_frame c l o
  rw [e]

@[simp] theorem sampled_errNp : (sampled c l o).errNp = o.errNp := by
  obtain ⟨_, _, e⟩ := sampled_frame c l o
  rw [e]

@[simp] theorem sampled_errIll : (sampled c l o).errIll = o.errIll := by
  obtain ⟨_, _, e⟩ := sampled_frame c l o
  rw [e]

@[simp] theorem sampled_tempValid : (sampled c l o).tempValid = o.tempValid := by
  obtain ⟨_, _, e⟩ := sampled_frame c l o
  rw [e]

end

/-! ## The two forms of the invariant -/

/-- OWT Idle: the control fields of 10_state.md R40 item 1, and item 5. -/
structure AtRest (o : Owt) : Prop where
  run : o.run = .idle
  cmd : o.cmd = .none
  stage : o.stage = .none
  prim : o.prim = .none
  k : o.k = 0
  bitidx : o.bitidx = 0
  oneError : ¬(o.errNp = true ∧ o.errIll = true)

/-- OWT inside a command: what the items of 10_state.md R40 and `StepForm` ask of a Busy state. -/
structure InCommand (c : Cfg) (o : Owt) : Prop where
  run : o.run = .busy
  cmd : o.cmd ≠ .none
  stage : o.stage ≠ .none ↔ o.cmd = .rtemp
  prim : o.prim = primFor o.cmd o.stage
  k : o.k < primLen c o.prim
  bitidx : o.bitidx ≠ 0 → movesByte o.cmd o.stage = true
  done : o.done = false
  errNp : o.errNp = false
  errIll : o.errIll = false
  tempValid : o.cmd = .rtemp → o.tempValid = false
  presence : afterPresence o.stage = true → o.presence = true

/-- A command at one of its stages has a primitive. -/
theorem primFor_ne_none {cmd : Cmd} {st : Stage} (hc : cmd ≠ .none) (hs : st ≠ .none ↔ cmd = .rtemp) :
    primFor cmd st ≠ .none := by
  cases cmd <;> cases st <;> simp_all [primFor]

theorem InCommand.prim_ne_none {c : Cfg} {o : Owt} (h : InCommand c o) : o.prim ≠ .none :=
  h.prim ▸ primFor_ne_none h.cmd h.stage

theorem AtRest.reachableForm {o : Owt} (c : Cfg) (h : AtRest o) : ReachableForm c o where
  idleCmd := by simp [h.run, h.cmd]
  idlePrim := by simp [h.run, h.prim]
  idleCounters _ := ⟨h.stage, h.k, h.bitidx⟩
  idleReleased _ := by simp [owOe, h.run]
  busyTickInside hb := by simp [h.run] at hb
  stageOfRtemp := by simp [h.stage, h.cmd]
  oneError := h.oneError
  doneIdle _ := h.run
  countsInBytes hi := absurd h.bitidx hi

theorem AtRest.stepForm {o : Owt} (c : Cfg) (h : AtRest o) : StepForm c o where
  primOfStage := by simp [h.prim, h.cmd, primFor]
  busyNoError hb := by simp [h.run] at hb
  rtempNotValid hc := by simp [h.cmd] at hc
  presenceKept hp := by simp [h.stage, afterPresence] at hp
  kWidth := by simp [h.k]

theorem InCommand.reachableForm {c : Cfg} {o : Owt} (h : InCommand c o) : ReachableForm c o where
  idleCmd := by simp [h.run, h.cmd]
  idlePrim := by simp [h.run, h.prim_ne_none]
  idleCounters hi := by simp [h.run] at hi
  idleReleased hi := by simp [h.run] at hi
  busyTickInside _ := h.k
  stageOfRtemp := h.stage
  oneError := by simp [h.errNp]
  doneIdle hd := by simp [h.done] at hd
  countsInBytes := h.bitidx

theorem InCommand.stepForm {c : Cfg} {o : Owt} (hc : CfgWf c) (h : InCommand c o) : StepForm c o where
  primOfStage := h.prim
  busyNoError _ := ⟨h.errNp, h.errIll⟩
  rtempNotValid := h.tempValid
  presenceKept := h.presence
  kWidth := Nat.lt_of_lt_of_le h.k (primLen_le hc o.prim)

theorem atRest_of_inv {s : State} (h : Inv s) (hi : s.owt.run = .idle) : AtRest s.owt := by
  obtain ⟨hstage, hk, hbit⟩ := h.reachable.idleCounters hi
  exact ⟨hi, h.reachable.idleCmd.1 hi, hstage, h.reachable.idlePrim.1 hi, hk, hbit, h.reachable.oneError⟩

theorem inCommand_of_inv {s : State} (h : Inv s) (hb : s.owt.run = .busy) : InCommand s.cfg s.owt := by
  obtain ⟨hNp, hIll⟩ := h.form.busyNoError hb
  have hNotIdle : s.owt.run ≠ .idle := by simp [hb]
  exact
    { run := hb
      cmd := fun e => hNotIdle (h.reachable.idleCmd.2 e)
      stage := h.reachable.stageOfRtemp
      prim := h.form.primOfStage
      k := h.reachable.busyTickInside hb
      bitidx := h.reachable.countsInBytes
      done := Bool.eq_false_iff.2 fun e => hNotIdle (h.reachable.doneIdle e)
      errNp := hNp
      errIll := hIll
      tempValid := h.form.rtempNotValid
      presence := h.form.presenceKept }

/-- The invariant is a well-formed configuration and one of the two forms. -/
theorem inv_iff {s : State} : Inv s ↔ CfgWf s.cfg ∧ (AtRest s.owt ∨ InCommand s.cfg s.owt) := by
  constructor
  · intro h
    refine ⟨h.cfgWf, ?_⟩
    cases hr : s.owt.run with
    | idle => exact .inl (atRest_of_inv h hr)
    | busy => exact .inr (inCommand_of_inv h hr)
  · rintro ⟨hc, h | h⟩
    · exact ⟨hc, h.reachableForm s.cfg, h.stepForm s.cfg⟩
    · exact ⟨hc, h.reachableForm, h.stepForm hc⟩

/-! ## The updates keep the forms -/

theorem atRest_reset : AtRest Owt.reset := ⟨rfl, rfl, rfl, rfl, rfl, rfl, by decide⟩

/-- Every command completes in the Idle form (10_state.md R31). -/
theorem atRest_complete {o : Owt} (h : o.errIll = false) : AtRest (complete o) :=
  ⟨rfl, rfl, rfl, rfl, rfl, rfl, by simp [h]⟩

theorem AtRest.illegalCommand {o : Owt} (h : AtRest o) : AtRest (illegalCommand o) :=
  ⟨h.run, h.cmd, h.stage, h.prim, h.k, h.bitidx, by simp⟩

section
variable {c : Cfg} {o : Owt}

/-- The form of a command does not speak of the registers `sr` and `lsb_tmp`. -/
theorem InCommand.setData (h : InCommand c o) (r x : Byte) : InCommand c { o with sr := r, lsbTmp := x } :=
  ⟨h.run, h.cmd, h.stage, h.prim, h.k, h.bitidx, h.done, h.errNp, h.errIll, h.tempValid, h.presence⟩

theorem InCommand.shiftSlot (h : InCommand c o) : InCommand c (shiftSlot o) := h.setData _ _

theorem InCommand.setK (h : InCommand c o) {n : Nat} (hn : n < primLen c o.prim) : InCommand c (setK n o) :=
  ⟨h.run, h.cmd, h.stage, h.prim, hn, h.bitidx, h.done, h.errNp, h.errIll, h.tempValid, h.presence⟩

/-- In the stages after an answered reset no P_RESET is in progress. -/
theorem primFor_afterPresence {st : Stage} (h : afterPresence st = true) : primFor .rtemp st ≠ .reset := by
  revert h
  cases st <;> decide

/-- The sample keeps the form: P_RESET is sampled only where `presence` is free. -/
theorem InCommand.sampled (h : InCommand c o) (l : Level) : InCommand c (sampled c l o) := by
  obtain ⟨-, e⟩ | ⟨-, hp, e⟩ | ⟨-, -, e⟩ := sampled_cases c l o <;> rw [e]
  · exact h
  · refine ⟨h.run, h.cmd, h.stage, h.prim, h.k, h.bitidx, h.done, h.errNp, h.errIll, h.tempValid, fun ha => ?_⟩
    have hrt : o.cmd = .rtemp := h.stage.1 fun e => by simp [e, afterPresence] at ha
    exact absurd (hrt ▸ h.prim ▸ hp) (primFor_afterPresence ha)
  · exact h.setData _ _

/-- The next slot of a byte (42_byte_serialization.md R161). -/
theorem InCommand.nextSlot (h : InCommand c o) (hc : CfgWf c) (hm : movesByte o.cmd o.stage = true) :
    InCommand c (nextSlot o) :=
  ⟨h.run, h.cmd, h.stage, h.prim, primLen_pos hc h.prim_ne_none, fun _ => hm, h.done, h.errNp, h.errIll, h.tempValid,
    h.presence⟩

/-- The next stage of RTEMP (43_thermal_sequencer.md R191). -/
theorem InCommand.enterStage (h : InCommand c o) (hc : CfgWf c) (hcmd : o.cmd = .rtemp) {st : Stage} {p : Prim}
    (hs : st ≠ .none) (hp : p = primFor .rtemp st) (hq : afterPresence st = true → o.presence = true) :
    InCommand c (enterStage st p o) where
  run := h.run
  cmd := h.cmd
  stage := by simp [hs, hcmd]
  prim := by simp [hp, hcmd]
  k := primLen_pos hc (hp ▸ primFor_ne_none (by decide) (by simp [hs]))
  bitidx := by simp
  done := h.done
  errNp := h.errNp
  errIll := h.errIll
  tempValid := h.tempValid
  presence := hq

theorem InCommand.startWbyte (h : InCommand c o) (hc : CfgWf c) (hcmd : o.cmd = .rtemp) {st : Stage} {b : Byte}
    (hs : st ≠ .none) (hp : .wslot = primFor .rtemp st) (hq : afterPresence st = true → o.presence = true) :
    InCommand c (startWbyte st b o) := (h.enterStage hc hcmd hs hp hq).setData _ _

/-- The first tick of a command (10_state.md R28), whatever its accept writes to `sr` and the kept flags. -/
theorem inCommand_begin (hc : CfgWf c) (cmd : Cmd) (st : Stage) (p : Prim) (o : Owt) (r : Byte) (q v : Bool)
    (hcmd : cmd ≠ .none := by decide) (hs : st ≠ .none ↔ cmd = .rtemp := by decide)
    (hp : p = primFor cmd st := by rfl) (hq : afterPresence st = false := by rfl)
    (hv : cmd = .rtemp → v = false := by simp) :
    InCommand c { beginCommand cmd p o with stage := st, sr := r, presence := q, tempValid := v } where
  run := rfl
  cmd := hcmd
  stage := hs
  prim := hp
  k := primLen_pos hc (hp ▸ primFor_ne_none hcmd hs)
  bitidx := by simp
  done := rfl
  errNp := rfl
  errIll := rfl
  tempValid := hv
  presence ha := by simp [hq] at ha

end

/-! ## The accept, by its commands -/

/-- What the accept of a legal word leads to (10_state.md R28). -/
inductive Accepted (o : Owt) : Owt → Prop where
  | reset : Accepted o (acceptReset o)
  | wbit (b : BitVec 1) : Accepted o (acceptWbit b o)
  | rbit : Accepted o (acceptRbit o)
  | wbyte (v : Byte) : Accepted o (acceptWbyte v o)
  | rbyte : Accepted o (acceptRbyte o)
  | rtemp : Accepted o (acceptRtemp o)

/-- The legal opcodes, one by one (30_encoding.md R91). -/
theorem legalOp_cases : ∀ op : BitVec 4, legalOp op = true →
    op = 0x1 ∨ op = 0x2 ∨ op = 0x3 ∨ op = 0x4 ∨ op = 0x5 ∨ op = 0x6 := by
  decide

theorem acceptWord_legal {w : CmdWord} (o : Owt) (h : legalOp (opField w) = true) : Accepted o (acceptWord w o) := by
  unfold acceptWord
  rcases legalOp_cases _ h with e | e | e | e | e | e <;> rw [e]
  · exact .reset
  · exact .wbit _
  · exact .rbit
  · exact .wbyte _
  · exact .rbyte
  · exact .rtemp

theorem acceptWord_illegal {w : CmdWord} (o : Owt) (h : legalOp (opField w) = false) :
    acceptWord w o = illegalCommand o := by
  unfold acceptWord
  split
  case h_7 => rfl
  all_goals simp_all [legalOp]

theorem Accepted.inCommand {c : Cfg} {o o' : Owt} (h : Accepted o o') (hc : CfgWf c) : InCommand c o' := by
  cases h with
  | reset => exact inCommand_begin hc .reset .none .reset o o.sr false o.tempValid
  | wbit b => exact inCommand_begin hc .wbit .none .wslot o (zext8 b) o.presence o.tempValid
  | rbit => exact inCommand_begin hc .rbit .none .rslot o o.sr o.presence o.tempValid
  | wbyte v => exact inCommand_begin hc .wbyte .none .wslot o v o.presence o.tempValid
  | rbyte => exact inCommand_begin hc .rbyte .none .rslot o o.sr o.presence o.tempValid
  | rtemp => exact inCommand_begin hc .rtemp .rst1 .reset o o.sr false false

/-! ## The end of a primitive -/

/-- The end of a primitive leads to the Idle form, or on inside the command. -/
theorem InCommand.endMove {c : Cfg} {o o' : Owt} (h : InCommand c o) (hc : CfgWf c) (hm : EndMove o o') :
    AtRest o' ∨ InCommand c o' := by
  cases hm
  case reset | wbit | rbit | wbyteDone | rbyteDone | abort | rtempDone => exact .inl (atRest_complete h.errIll)
  case wbyteNext hcmd _ _ => exact .inr (h.shiftSlot.nextSlot hc (by simp [hcmd, movesByte]))
  case rbyteNext hcmd _ _ => exact .inr (h.nextSlot hc (by simp [hcmd, movesByte]))
  case rtempWriteNext hcmd _ hs _ =>
    exact .inr (h.shiftSlot.nextSlot hc (by rcases hs with e | e | e | e <;> simp [hcmd, e, movesByte]))
  case rtempReadNext hcmd _ hs _ =>
    exact .inr (h.nextSlot hc (by rcases hs with e | e <;> simp [hcmd, e, movesByte]))
  case toSkip1 hcmd _ _ hq => exact .inr (h.startWbyte hc hcmd (by decide) rfl fun _ => hq)
  case toSkip2 hcmd _ _ hq => exact .inr (h.startWbyte hc hcmd (by decide) rfl fun _ => hq)
  case toConv hcmd _ hs _ =>
    exact .inr (h.shiftSlot.startWbyte hc hcmd (by decide) rfl fun _ => h.presence (by simp [hs, afterPresence]))
  case toRdsp hcmd _ hs _ =>
    exact .inr (h.shiftSlot.startWbyte hc hcmd (by decide) rfl fun _ => h.presence (by simp [hs, afterPresence]))
  case toWait hcmd _ hs _ =>
    exact .inr (h.shiftSlot.enterStage hc hcmd (by decide) rfl fun _ => h.presence (by simp [hs, afterPresence]))
  case toLsb hcmd _ hs _ =>
    exact .inr (h.shiftSlot.enterStage hc hcmd (by decide) rfl fun _ => h.presence (by simp [hs, afterPresence]))
  case toRst2 hcmd _ hs =>
    have hbit : o.bitidx = 0 := by
      by_contra hne
      simpa [hcmd, hs, movesByte] using h.bitidx hne
    have hform := h.enterStage hc hcmd (st := .rst2) (p := .reset) (by decide) rfl (by simp [afterPresence])
    rw [Machine.enterStage, ← hbit] at hform
    exact .inr hform
  case toMsb hcmd hp hs _ =>
    have hform := (h.setData o.sr o.sr).enterStage hc hcmd (st := .msb) (p := .rslot) (by decide) rfl
      fun _ => h.presence (by simp [hs, afterPresence])
    rw [Machine.enterStage, ← hp] at hform
    exact .inr hform

/-! ## The moves of a step -/

/-- What a step under the invariant makes of OWT (10_state.md R27), with the form OWT was in. -/
inductive StepMove (s : State) : Owt → Prop where
  | reset (hr : (inputNow s).rst = true) : StepMove s Owt.reset
  | hold (hrest : AtRest s.owt) : StepMove s s.owt
  | refuse (hrest : AtRest s.owt) (hw : WordTaken s) (hl : legalOp (opField (inputNow s).cmdWord) = false) :
      StepMove s (illegalCommand s.owt)
  | accept (hw : WordTaken s) (hl : legalOp (opField (inputNow s).cmdWord) = true) {o' : Owt}
      (ha : Accepted s.owt o') : StepMove s o'
  | count (hb : InCommand s.cfg s.owt) (hk : s.owt.k < primLen s.cfg s.owt.prim - 1) :
      StepMove s (setK (s.owt.k + 1) (sampled s.cfg (owIn s) s.owt))
  | primEnd (hb : InCommand s.cfg s.owt) (he : AtPrimEnd s) {o' : Owt}
      (hm : EndMove (sampled s.cfg (owIn s) s.owt) o') : StepMove s o'

/-- Every step under the invariant makes one of the moves, and otherwise only uses up its tick. -/
theorem step_move {s t : State} (hi : Inv s) (h : step s = .next t) : StepMove s t.owt ∧ t.cfg = s.cfg := by
  obtain ⟨hr, rfl⟩ | ⟨-, hidle, -, rfl⟩ | ⟨-, hidle, hv, rfl⟩ | ⟨-, hb, -, hk, rfl⟩ | ⟨-, hb, he, o', hm, rfl⟩ :=
    step_cases_of_inv hi h <;> refine ⟨?_, rfl⟩
  · exact .reset hr
  · exact .hold (atRest_of_inv hi hidle)
  · cases hl : legalOp (opField (inputNow s).cmdWord) with
    | false =>
      rw [setOwt_owt, acceptWord_illegal _ hl]
      exact .refuse (atRest_of_inv hi hidle) ⟨hidle, hv⟩ hl
    | true => exact .accept ⟨hidle, hv⟩ hl (acceptWord_legal _ hl)
  · exact .count (inCommand_of_inv hi hb) hk
  · exact .primEnd (inCommand_of_inv hi hb) he hm

/-- A move leads to one of the two forms. -/
theorem StepMove.form {s : State} {o' : Owt} (h : StepMove s o') (hc : CfgWf s.cfg) :
    AtRest o' ∨ InCommand s.cfg o' := by
  cases h with
  | reset => exact .inl atRest_reset
  | hold hrest => exact .inl hrest
  | refuse hrest => exact .inl hrest.illegalCommand
  | accept _ _ ha => exact .inr (ha.inCommand hc)
  | count hb hk => exact .inr ((hb.sampled _).setK (by rw [sampled_prim]; omega))
  | primEnd hb _ hm => exact (hb.sampled _).endMove hc hm

/-- Settles O33: every move leads from one form of the invariant to one of them. -/
theorem invariantKept : Obligations.InvariantKept := by
  intro s t hi h
  obtain ⟨hmove, hcfg⟩ := step_move hi h
  rw [inv_iff, hcfg]
  exact ⟨hi.cfgWf, hmove.form hi.cfgWf⟩

/-- Settles O32: `RESET_STATE` has the Idle form, and the default configuration is well formed. -/
theorem invariantAtReset : Obligations.InvariantAtReset :=
  inv_iff.2 ⟨by decide, .inl atRest_reset⟩

end Sys2Proof.Proofs
end

section
/-! The step by the state and the port: Idle ticks, Busy ticks, and what each of them reads (10_state.md R27, R36). -/

namespace Sys2Proof.Proofs

open Sys2Proof.Machine

/-- Settles O4: `step_word`, the word's decoding named. -/
theorem stepRunsPresentedCommand : Obligations.StepRunsPresentedCommand := by
  intro s i hc hr hidle hv hdec
  obtain rfl : pseudoName (decodeCmd (inputNow s).cmdWord) = i := by simpa [decode_cmd] using hdec
  exact step_word hc hr hidle hv

/-- Settles O6: the hold arm, `step_hold`. -/
theorem idleHoldsWithoutCommand : Obligations.IdleHoldsWithoutCommand :=
  fun _ hc hr hidle hv => step_hold hc hr hidle hv

/-- Off its sample tick a Busy OWT samples nothing. -/
theorem sampled_eq_self {s : State} (hb : s.owt.run = .busy) (hns : ¬AtSample s) (l : Level) :
    sampled s.cfg l s.owt = s.owt :=
  if_neg fun h => hns ⟨hb, h⟩

/-- Settles O26: the count move of `step_busy_moves`, its sample empty. -/
theorem busyTickCounts : Obligations.BusyTickCounts := by
  intro s hi hb hr hns hne
  obtain ⟨-, -, hstep⟩ | ⟨he, -⟩ := step_busy_moves hi hr hb
  · rw [hstep, sampled_eq_self hb hns]
    rfl
  · exact absurd he hne

/-- A Busy tick reads no input but `rst` and the slave's decision. -/
theorem step_setInput_busy {s : State} {i : TickIn} (hb : s.owt.run = .busy) (hrst : i.rst = (inputNow s).rst)
    (hdev : i.devLow = (inputNow s).devLow) : step (setInput i s) = step s := by
  by_cases hc : CfgWf s.cfg
  · cases hr : (inputNow s).rst with
    | true => rw [step_reset hc hr, step_reset (s := setInput i s) hc (hrst.trans hr), passTicks_one_setInput]
    | false =>
      have hline : owIn (setInput i s) = owIn s := by simp [owIn, hdev]
      rw [step_busy hc hr hb, step_busy (s := setInput i s) hc (hrst.trans hr) hb, hline, passTicks_one_setInput]
      rfl
  · rw [step_illFormed hc, step_illFormed (s := setInput i s) hc]

/-- Settles O29: a port's word is none of what `step_setInput_busy` says a Busy tick reads. -/
theorem busyIgnoresThePort : Obligations.BusyIgnoresThePort := by
  intro s v w hb
  have hready : (ports s.cfg s.owt).cmdReady = false := by simp [ports, hb]
  exact ⟨hready, step_setInput_busy hb rfl rfl⟩

end Sys2Proof.Proofs
end

section
/-! What each move writes to each register and flag (10_state.md R23, R25), and the statements on their writers. -/

namespace Sys2Proof.Proofs

open Sys2Proof.Machine

/-! ## The sample -/

/-- The sample writes `sr` only at the sample tick of P_RSLOT. -/
theorem sampled_sr {s : State} (hb : s.owt.run = .busy) (l : Level) :
    (sampled s.cfg l s.owt).sr = s.owt.sr ∨ AtSample s ∧ s.owt.prim = .rslot := by
  obtain ⟨-, e⟩ | ⟨-, -, e⟩ | ⟨hs, hp, -⟩ := sampled_cases s.cfg l s.owt
  · exact .inl (by rw [e])
  · exact .inl (by rw [e])
  · exact .inr ⟨⟨hb, hs⟩, hp⟩

/-- The sample writes `presence` only at the sample tick of P_RESET, and reads there whether the slave pulls: OWT has
released the line (20_memory.md R64). -/
theorem sampled_presence {s : State} (hc : CfgWf s.cfg) (hb : s.owt.run = .busy) :
    (sampled s.cfg (owIn s) s.owt).presence = s.owt.presence ∨
      AtSample s ∧ s.owt.prim = .reset ∧ (inputNow s).devLow = (sampled s.cfg (owIn s) s.owt).presence := by
  obtain ⟨-, e⟩ | ⟨hs, hp, e⟩ | ⟨-, -, e⟩ := sampled_cases s.cfg (owIn s) s.owt
  · exact .inl (by rw [e])
  · refine .inr ⟨⟨hb, hs⟩, hp, ?_⟩
    rw [e, owIn, owOe_at_sample hc hs]
    cases (inputNow s).devLow <;> rfl
  · exact .inl (by rw [e])

/-! ## The end of a primitive -/

section
variable {o o' : Owt}

theorem endMove_rdata (h : EndMove o o') :
    o'.rdata = o.rdata ∨ (o.cmd = .rbit ∨ o.cmd = .rbyte ∧ o.bitidx = 7) ∧ o'.run = .idle := by
  cases h
  case rbit hc _ => exact .inr ⟨.inl hc, rfl⟩
  case rbyteDone hc _ hi => exact .inr ⟨.inr ⟨hc, hi⟩, rfl⟩
  all_goals exact .inl rfl

theorem endMove_tempRaw (h : EndMove o o') :
    o'.tempRaw = o.tempRaw ∨ o.cmd = .rtemp ∧ o.stage = .msb ∧ o.bitidx = 7 ∧ o' = msbDone o := by
  cases h
  case rtempDone hc _ hs hi => exact .inr ⟨hc, hs, hi, rfl⟩
  all_goals exact .inl rfl

theorem endMove_tempValid (h : EndMove o o') :
    o'.tempValid = o.tempValid ∨ o.cmd = .rtemp ∧ o.stage = .msb ∧ o.bitidx = 7 ∧ o' = msbDone o := by
  cases h
  case rtempDone hc _ hs hi => exact .inr ⟨hc, hs, hi, rfl⟩
  all_goals exact .inl rfl

theorem endMove_lsbTmp (h : EndMove o o') :
    o'.lsbTmp = o.lsbTmp ∨ o.cmd = .rtemp ∧ o.stage = .lsb ∧ o.bitidx = 7 ∧ o' = lsbDone o := by
  cases h
  case toMsb hc _ hs hi => exact .inr ⟨hc, hs, hi, rfl⟩
  all_goals exact .inl rfl

theorem endMove_sr (h : EndMove o o') :
    o'.sr = o.sr ∨ o.prim = .wslot ∨ o.cmd = .rtemp ∧ o'.prim = .wslot ∧ o'.k = 0 := by
  cases h
  case wbit hp | wbyteNext hp _ | wbyteDone hp _ => exact .inr (.inl hp)
  case rtempWriteNext hp _ _ | toConv hp _ _ | toWait hp _ _ | toRdsp hp _ _ | toLsb hp _ _ => exact .inr (.inl hp)
  case toSkip1 hc _ _ _ | toSkip2 hc _ _ _ => exact .inr (.inr ⟨hc, rfl, rfl⟩)
  all_goals exact .inl rfl

theorem endMove_done (h : EndMove o o') : o'.done = o.done ∨ o'.done = true ∧ o'.run = .idle := by
  cases h
  case reset | wbit | rbit | wbyteDone | rbyteDone | abort | rtempDone => exact .inr ⟨rfl, rfl⟩
  all_goals exact .inl rfl

theorem endMove_presence (h : EndMove o o') : o'.presence = o.presence := by
  cases h <;> rfl

theorem endMove_errNp (h : EndMove o o') :
    o'.errNp = o.errNp ∨ o.prim = .reset ∧ o'.errNp = (!o'.presence) ∧ (o.cmd = .reset ∨ o.cmd = .rtemp) := by
  cases h
  case reset hc hp => exact .inr ⟨hp, rfl, .inl hc⟩
  case abort hc hp _ hq => exact .inr ⟨hp, by simp [hq], .inr hc⟩
  all_goals exact .inl rfl

theorem endMove_errIll (h : EndMove o o') : o'.errIll = o.errIll := by
  cases h <;> rfl

/-! ## The accept -/

theorem accepted_rdata (h : Accepted o o') : o'.rdata = o.rdata := by
  cases h <;> rfl

theorem accepted_tempRaw (h : Accepted o o') : o'.tempRaw = o.tempRaw := by
  cases h <;> rfl

theorem accepted_lsbTmp (h : Accepted o o') : o'.lsbTmp = o.lsbTmp := by
  cases h <;> rfl

theorem accepted_sr (h : Accepted o o') : o'.sr = o.sr ∨ o'.cmd = .wbit ∨ o'.cmd = .wbyte := by
  cases h
  case wbit => exact .inr (.inl rfl)
  case wbyte => exact .inr (.inr rfl)
  all_goals exact .inl rfl

/-- The accept clears `done` and both error flags (10_state.md R28). -/
theorem accepted_clears (h : Accepted o o') : o'.done = false ∧ o'.errNp = false ∧ o'.errIll = false := by
  cases h <;> exact ⟨rfl, rfl, rfl⟩

theorem accepted_presence (h : Accepted o o') :
    o'.presence = o.presence ∨ (o'.cmd = .reset ∨ o'.cmd = .rtemp) ∧ o'.presence = false := by
  cases h
  case reset => exact .inr ⟨.inl rfl, rfl⟩
  case rtemp => exact .inr ⟨.inr rfl, rfl⟩
  all_goals exact .inl rfl

theorem accepted_tempValid (h : Accepted o o') :
    o'.tempValid = o.tempValid ∨ o'.cmd = .rtemp ∧ o'.tempValid = false := by
  cases h
  case rtemp => exact .inr ⟨rfl, rfl⟩
  all_goals exact .inl rfl

end

/-! ## A step, register by register -/

section
variable {s : State} {o' : Owt}

theorem StepMove.rdata (h : StepMove s o') (hr : (inputNow s).rst = false) :
    o'.rdata = s.owt.rdata ∨
      AtPrimEnd s ∧ (s.owt.cmd = .rbit ∨ s.owt.cmd = .rbyte ∧ s.owt.bitidx = 7) ∧ o'.run = .idle := by
  cases h with
  | reset hrst => simp [hr] at hrst
  | hold | refuse => exact .inl rfl
  | accept _ _ ha => exact .inl (accepted_rdata ha)
  | count => exact .inl (by simp)
  | primEnd _ he hm => exact (endMove_rdata hm).imp (by simp) fun h => ⟨he, by simpa using h⟩

theorem StepMove.tempRaw (h : StepMove s o') (hr : (inputNow s).rst = false) :
    o'.tempRaw = s.owt.tempRaw ∨ AtByteEnd s ∧ s.owt.cmd = .rtemp ∧ s.owt.stage = .msb ∧ o'.run = .idle ∧
      o'.tempValid = true ∧ o'.tempRaw = o'.sr ++ s.owt.lsbTmp := by
  cases h with
  | reset hrst => simp [hr] at hrst
  | hold | refuse => exact .inl rfl
  | accept _ _ ha => exact .inl (accepted_tempRaw ha)
  | count => exact .inl (by simp)
  | primEnd _ he hm =>
    obtain e | ⟨hcmd, hst, hbit, rfl⟩ := endMove_tempRaw hm
    · exact .inl (by simpa using e)
    · simp only [sampled_cmd, sampled_stage, sampled_bitidx] at hcmd hst hbit
      exact .inr ⟨⟨he, hbit⟩, hcmd, hst, rfl, rfl, by simp [composeReading]⟩

theorem StepMove.lsbTmp (h : StepMove s o') (hr : (inputNow s).rst = false) :
    o'.lsbTmp = s.owt.lsbTmp ∨ AtByteEnd s ∧ s.owt.cmd = .rtemp ∧ s.owt.stage = .lsb ∧ o'.lsbTmp = o'.sr := by
  cases h with
  | reset hrst => simp [hr] at hrst
  | hold | refuse => exact .inl rfl
  | accept _ _ ha => exact .inl (accepted_lsbTmp ha)
  | count => exact .inl (by simp)
  | primEnd _ he hm =>
    obtain e | ⟨hcmd, hst, hbit, rfl⟩ := endMove_lsbTmp hm
    · exact .inl (by simpa using e)
    · simp only [sampled_cmd, sampled_stage, sampled_bitidx] at hcmd hst hbit
      exact .inr ⟨⟨he, hbit⟩, hcmd, hst, rfl⟩

theorem StepMove.sr (h : StepMove s o') (hr : (inputNow s).rst = false) :
    o'.sr = s.owt.sr ∨ WordTaken s ∧ (o'.cmd = .wbit ∨ o'.cmd = .wbyte) ∨ AtPrimEnd s ∧ s.owt.prim = .wslot ∨
      AtSample s ∧ s.owt.prim = .rslot ∨
      AtPrimEnd s ∧ s.owt.cmd = .rtemp ∧ o'.prim = .wslot ∧ o'.k = 0 := by
  cases h with
  | reset hrst => simp [hr] at hrst
  | hold | refuse => exact .inl rfl
  | accept hw _ ha => exact (accepted_sr ha).imp id fun h => .inl ⟨hw, h⟩
  | count hb => exact (sampled_sr hb.run _).imp id fun h => .inr (.inr (.inl h))
  | primEnd hb he hm =>
    obtain e | hp | h := endMove_sr hm
    · rw [e]
      exact (sampled_sr hb.run _).imp id fun h => .inr (.inr (.inl h))
    · exact .inr (.inr (.inl ⟨he, by simpa using hp⟩))
    · exact .inr (.inr (.inr (.inr ⟨he, by simpa using h⟩)))

end

/-- Settles O36: register by register, from the moves of a step. -/
theorem dataRegisterWriters : Obligations.DataRegisterWriters := by
  intro s t hi hr h
  obtain ⟨hm, -⟩ := step_move hi h
  exact ⟨(hm.rdata hr).resolve_left, (hm.tempRaw hr).resolve_left, (hm.lsbTmp hr).resolve_left,
    (hm.sr hr).resolve_left⟩

/-! ## A step, flag by flag -/

section
variable {s : State} {o' : Owt}

theorem StepMove.done (h : StepMove s o') :
    o'.done = s.owt.done ∨
      o'.done = true ∧ o'.run = .idle ∧
        (AtPrimEnd s ∨ WordTaken s ∧ legalOp (opField (inputNow s).cmdWord) = false) ∨
      o'.done = false ∧
        ((inputNow s).rst = true ∨ WordTaken s ∧ legalOp (opField (inputNow s).cmdWord) = true) := by
  cases h with
  | reset hrst => exact .inr (.inr ⟨rfl, .inl hrst⟩)
  | hold => exact .inl rfl
  | refuse hrest hw hl => exact .inr (.inl ⟨rfl, hrest.run, .inr ⟨hw, hl⟩⟩)
  | accept hw hl ha => exact .inr (.inr ⟨(accepted_clears ha).1, .inr ⟨hw, hl⟩⟩)
  | count => exact .inl (by simp)
  | primEnd _ he hm =>
    obtain e | ⟨hd, hrun⟩ := endMove_done hm
    · exact .inl (by simpa using e)
    · exact .inr (.inl ⟨hd, hrun, .inl he⟩)

theorem StepMove.presence (h : StepMove s o') (hc : CfgWf s.cfg) :
    o'.presence = s.owt.presence ∨
      o'.presence = false ∧ ((inputNow s).rst = true ∨ WordTaken s ∧ (o'.cmd = .reset ∨ o'.cmd = .rtemp)) ∨
      AtSample s ∧ s.owt.prim = .reset ∧ (inputNow s).devLow = o'.presence := by
  cases h with
  | reset hrst => exact .inr (.inl ⟨rfl, .inl hrst⟩)
  | hold | refuse => exact .inl rfl
  | accept hw _ ha => exact (accepted_presence ha).imp id fun ⟨hcmd, hp⟩ => .inl ⟨hp, .inr ⟨hw, hcmd⟩⟩
  | count hb => exact (sampled_presence hc hb.run).imp id .inr
  | primEnd hb _ hm =>
    rw [endMove_presence hm]
    exact (sampled_presence hc hb.run).imp id .inr

theorem StepMove.errNp (h : StepMove s o') :
    o'.errNp = s.owt.errNp ∨ o'.errNp = false ∧ ((inputNow s).rst = true ∨ WordTaken s) ∨
      s.owt.errNp = false ∧ AtPrimEnd s ∧ s.owt.prim = .reset ∧ o'.errNp = (!o'.presence) ∧
        (s.owt.cmd = .reset ∨ s.owt.cmd = .rtemp) := by
  cases h with
  | reset hrst => exact .inr (.inl ⟨rfl, .inl hrst⟩)
  | hold => exact .inl rfl
  | refuse _ hw => exact .inr (.inl ⟨rfl, .inr hw⟩)
  | accept hw _ ha => exact .inr (.inl ⟨(accepted_clears ha).2.1, .inr hw⟩)
  | count => exact .inl (by simp)
  | primEnd hb he hm =>
    obtain e | h := endMove_errNp hm
    · exact .inl (by simpa using e)
    · exact .inr (.inr ⟨hb.errNp, he, by simpa using h⟩)

theorem StepMove.errIll (h : StepMove s o') :
    o'.errIll = s.owt.errIll ∨
      o'.errIll = true ∧ WordTaken s ∧ legalOp (opField (inputNow s).cmdWord) = false ∧ o'.run = .idle ∨
      o'.errIll = false ∧
        ((inputNow s).rst = true ∨ WordTaken s ∧ legalOp (opField (inputNow s).cmdWord) = true) := by
  cases h with
  | reset hrst => exact .inr (.inr ⟨rfl, .inl hrst⟩)
  | hold => exact .inl rfl
  | refuse hrest hw hl => exact .inr (.inl ⟨rfl, hw, hl, hrest.run⟩)
  | accept hw hl ha => exact .inr (.inr ⟨(accepted_clears ha).2.2, .inr ⟨hw, hl⟩⟩)
  | count => exact .inl (by simp)
  | primEnd _ _ hm => exact .inl (by simp [endMove_errIll hm])

theorem StepMove.tempValid (h : StepMove s o') :
    o'.tempValid = s.owt.tempValid ∨
      o'.tempValid = true ∧ AtByteEnd s ∧ s.owt.cmd = .rtemp ∧ s.owt.stage = .msb ∧ s.owt.presence = true ∨
      o'.tempValid = false ∧ ((inputNow s).rst = true ∨ WordTaken s ∧ o'.cmd = .rtemp) := by
  cases h with
  | reset hrst => exact .inr (.inr ⟨rfl, .inl hrst⟩)
  | hold | refuse => exact .inl rfl
  | accept hw _ ha => exact (accepted_tempValid ha).imp id fun ⟨hcmd, hv⟩ => .inr ⟨hv, .inr ⟨hw, hcmd⟩⟩
  | count => exact .inl (by simp)
  | primEnd hb he hm =>
    obtain e | ⟨hcmd, hst, hbit, rfl⟩ := endMove_tempValid hm
    · exact .inl (by simpa using e)
    · simp only [sampled_cmd, sampled_stage, sampled_bitidx] at hcmd hst hbit
      exact .inr (.inl ⟨rfl, ⟨he, hbit⟩, hcmd, hst, hb.presence (by rw [hst]; rfl)⟩)

end

/-- Settles O37: a flag that changes is neither kept nor set to the value it had, so one case of its lemma remains. -/
theorem flagWriters : Obligations.FlagWriters := by
  intro s t hi h
  obtain ⟨hm, -⟩ := step_move hi h
  refine ⟨?_, ?_, ?_, ?_, ?_, ?_, ?_, ?_, ?_, ?_⟩ <;> intro hs ht
  · simpa [hs, ht] using hm.done
  · simpa [hs, ht] using hm.done
  · simpa [hs, ht] using hm.presence hi.cfgWf
  · simpa [hs, ht, or_assoc] using hm.presence hi.cfgWf
  · simpa [hs, ht] using hm.errNp
  · simpa [hs, ht] using hm.errNp
  · simpa [hs, ht] using hm.errIll
  · simpa [hs, ht] using hm.errIll
  · simpa [hs, ht] using hm.tempValid
  · simpa [hs, ht] using hm.tempValid

end Sys2Proof.Proofs
end

section
/-! The reset values, the table of primitives and the output ports (10_state.md R24, R26, R34, R35, R38). -/

namespace Sys2Proof.Proofs

open Sys2Proof.Machine

/-- Settles O1: by evaluation, no output of `RESET_STATE` depending on the configuration. -/
theorem resetStateValues : Obligations.ResetStateValues :=
  ⟨rfl, fun _ => ⟨rfl, rfl, rfl, rfl⟩⟩

/-- 10_state.md R26 read from bit 0 up: each flag stands below the bits packed before it. -/
theorem statusByte_eq_concat (o : Owt) : statusByte o =
    ((((((0#2).concat o.tempValid).concat o.errIll).concat o.errNp).concat o.presence).concat o.done).concat
      (decide (o.run = .busy)) := rfl

/-- Settles O23: each bit of the concatenation in turn. -/
theorem statusPacksTheFlags : Obligations.StatusPacksTheFlags := by
  intro o
  simp only [statusByte_eq_concat, BitVec.getLsbD_concat_zero, BitVec.getLsbD_concat_succ, BitVec.getLsbD_zero,
    and_self]

/-- 10_state.md R35, as an equivalence. -/
theorem owOe_iff (c : Cfg) (o : Owt) : owOe c o = true ↔ o.run = .busy ∧ o.k < primLowlen c o.prim o.sr := by
  simp [owOe]

/-- Settles O24: `owOe_iff`, and the pin mode as the case of `ow_oe`. -/
theorem lineDriveRule : Obligations.LineDriveRule := by
  intro c o
  have hmode : pinMode c o = if (ports c o).owOe then .drivenLow else .floatingInput := rfl
  exact ⟨owOe_iff c o, fun h => by rw [hmode, if_pos h], fun h => by simp [hmode, h], rfl⟩

/-- 41_bit_slots.md R145: the bit shifted in stands at the top. -/
theorem shiftIn_getLsbD_top (b : BitVec 1) (sr : Byte) : (shiftIn b sr).getLsbD 7 = b.getLsbD 0 :=
  BitVec.getLsbD_append

/-- 41_bit_slots.md R145: the other bits move down by one. -/
theorem shiftIn_getLsbD_low (b : BitVec 1) (sr : Byte) {j : Nat} (hj : j < 7) :
    (shiftIn b sr).getLsbD j = sr.getLsbD (j + 1) := by
  calc (shiftIn b sr).getLsbD j
      = if j < 7 then (sr.extractLsb' 1 7).getLsbD j else b.getLsbD (j - 7) := BitVec.getLsbD_append
    _ = sr.getLsbD (j + 1) := by simp [hj, Nat.add_comm]

theorem levelBit_getLsbD (l : Level) : (levelBit l).getLsbD 0 = decide (l = .H) := by
  cases l <;> rfl

theorem latch_reset {o : Owt} (l : Level) (hp : o.prim = .reset) :
    latch l o = { o with presence := presenceOf l } := by
  simp [latch, hp]

theorem latch_rslot {o : Owt} (l : Level) (hp : o.prim = .rslot) :
    latch l o = { o with sr := shiftIn (levelBit l) o.sr } := by
  simp [latch, hp]

theorem latch_eq_self {o : Owt} (l : Level) (hp : o.prim = .wslot ∨ o.prim = .wait) : latch l o = o := by
  rcases hp with hp | hp <;> simp [latch, hp]

/-- How long a write slot drives low is the bit it sends (10_state.md R24). -/
theorem primLowlen_wslot (c : Cfg) (sr : Byte) :
    primLowlen c .wslot sr = if sr.getLsbD 0 then c.tW1l else c.tSlot := rfl

/-- Settles O22: the columns by evaluation, the samples by the `latch` lemmas, the drive by `owOe_iff`. -/
theorem primitiveTable : Obligations.PrimitiveTable := by
  refine ⟨fun c sr => ⟨⟨rfl, rfl, rfl⟩, ⟨rfl, fun h => ?_, fun h => ?_, rfl⟩, ⟨rfl, rfl, rfl⟩, rfl, rfl, rfl⟩,
    fun o l hp => latch_reset l hp, fun o l hp => ?_, fun o l hp => latch_eq_self l hp, fun c o hb => ?_,
    fun sr => ⟨rfl, rfl, rfl, rfl, rfl, rfl⟩⟩
  · rw [primLowlen_wslot, if_pos h]
  · rw [primLowlen_wslot, if_neg (by simp only [h]; decide)]
  · rw [latch_rslot l hp]
    exact ⟨(shiftIn_getLsbD_top _ _).trans (levelBit_getLsbD l), fun j hj => shiftIn_getLsbD_low _ _ hj, rfl⟩
  · simp [owOe_iff, hb]

end Sys2Proof.Proofs
end

section
/-! What a step reads of the environment: the host's inputs, and the slave's pull at the two kinds of sample tick
(20_memory.md R64, R78). -/

namespace Sys2Proof.Proofs

open Sys2Proof.Machine

/-! ## The line at a sample tick -/

/-- Only P_RESET and P_RSLOT sample (10_state.md R24). -/
theorem prim_of_primSample {c : Cfg} {p : Prim} {k : Nat} (h : primSample c p = some k) :
    p = .reset ∨ p = .rslot := by
  cases p with
  | reset => exact .inl rfl
  | rslot => exact .inr rfl
  | none | wslot | wait => cases h

/-- A line that OWT does not drive shows what the slave does (20_memory.md R61). -/
theorem owIn_eq_H_of_released {s : State} (h : owOe s.cfg s.owt = false) :
    owIn s = .H ↔ (inputNow s).devLow = false := by
  cases hd : (inputNow s).devLow <;> simp [owIn, lineLevel, h, hd]

/-! ## The same tick in another environment -/

/-- An outcome carried over to the environment of `e`: the next `owt` placed there, a stop as it is. -/
def inEnv (e : State) : Host.Outcome State Fault Refusal → Host.Outcome State Fault Refusal
  | .next t => .next (setOwt t.owt e)
  | .fault f => .fault f
  | .refused r => .refused r

/-- The host does the same in two ticks (10_state.md R33; the reading of log 16). -/
def HostAlike (i i' : TickIn) : Prop := i.rst = i'.rst ∧ i.cmdValid = i'.cmdValid ∧ i.cmdWord = i'.cmdWord

/-- A meaning reads `owt` only. -/
theorem exec_inEnv (i : Instr) {s s' : State} (ho : s'.owt = s.owt) : exec i s' = inEnv s' (exec i s) := by
  cases i with
  | wireSkipRom | wireConvertT | wireReadScratchpad =>
    simp only [exec, execWireSkipRom, execWireConvertT, execWireReadScratchpad, ho]
    split <;> rfl
  | _ =>
    simp only [exec, execReset, execWbit, execRbit, execWbyte, execRbyte, execRtemp, execSkipRom, execConvertT,
      execReadScratchpad, execIllegal0, execIllegal7, execIllegal8F, ho]
    rfl

theorem finish_inEnv (t t' : State) (x : Transfer) : finish t' x = inEnv t' (finish t x) := by
  cases x with
  | goto o | stuck f => rfl
  | send o b =>
    simp only [finish]
    split
    · exact exec_inEnv _ rfl
    · rfl

/-- The level of the line enters a Busy tick through its sample only (10_state.md R27). -/
theorem busyTick_congr_sampled {c : Cfg} {l l' : Level} {o : Owt} (h : sampled c l o = sampled c l' o) :
    busyTick c l o = busyTick c l' o := by
  simp only [busyTick, h]

/-- A step is the same in two environments if the host does the same, and at a sample tick the slave too. -/
theorem step_inEnv {s s' : State} (ho : s'.owt = s.owt) (hcfg : s'.cfg = s.cfg)
    (hhost : HostAlike (inputNow s) (inputNow s')) (hpull : AtSample s → pullAt s 0 = pullAt s' 0) :
    step s' = inEnv (passTicks 1 s') (step s) := by
  obtain ⟨hrst, hvalid, hword⟩ := hhost
  by_cases hc : CfgWf s.cfg
  · have hc' : CfgWf s'.cfg := hcfg ▸ hc
    cases hr : (inputNow s).rst with
    | true =>
      rw [step_reset hc hr, step_reset hc' (hrst.symm.trans hr)]
      rfl
    | false =>
      have hr' := hrst.symm.trans hr
      cases hrun : s.owt.run with
      | idle =>
        have hrun' : s'.owt.run = .idle := ho ▸ hrun
        cases hv : (inputNow s).cmdValid with
        | false =>
          have hkept : passTicks 1 s' = setOwt s.owt (passTicks 1 s') := by
            rw [← ho]
            rfl
          rw [step_hold hc hr hrun hv, step_hold hc' hr' hrun' (hvalid.symm.trans hv)]
          exact congrArg _ hkept
        | true =>
          rw [step_word hc hr hrun hv, step_word hc' hr' hrun' (hvalid.symm.trans hv), hword]
          exact exec_inEnv _ ho
      | busy =>
        have hsampled : sampled s.cfg (owIn s') s.owt = sampled s.cfg (owIn s) s.owt := by
          by_cases hs : AtSample s
          · have hdev : (inputNow s').devLow = (inputNow s).devLow := (hpull hs).symm
            rw [owIn, owIn, ho, hcfg, hdev]
          · rw [sampled_eq_self hrun hs, sampled_eq_self hrun hs]
        rw [step_busy hc hr hrun, step_busy hc' hr' (ho ▸ hrun), ho, hcfg, busyTick_congr_sampled hsampled]
        exact finish_inEnv _ _ _
  · rw [step_illFormed hc, step_illFormed (hcfg ▸ hc)]
    rfl

/-- A step changes nothing but `owt`, and uses up one tick of the environment. -/
theorem step_inEnv_self (s : State) : step s = inEnv (passTicks 1 s) (step s) :=
  step_inEnv rfl rfl ⟨rfl, rfl, rfl⟩ fun _ => rfl

theorem step_next_frame {s t : State} (h : step s = .next t) : t = setOwt t.owt (passTicks 1 s) := by
  have e := step_inEnv_self s
  rw [h] at e
  exact Host.Outcome.next.inj e

theorem cfg_of_step {s t : State} (h : step s = .next t) : t.cfg = s.cfg := by
  rw [step_next_frame h]
  rfl

theorem inputAt_of_step {s t : State} (h : step s = .next t) (j : Nat) : inputAt t j = inputAt s (j + 1) := by
  rw [step_next_frame h, inputAt_setOwt, inputAt_passTicks, Nat.add_comm]

theorem pullAt_of_step {s t : State} (h : step s = .next t) (j : Nat) : pullAt t j = pullAt s (j + 1) := by
  rw [pullAt, pullAt, inputAt_of_step h]

/-- Settles O28: OWT releases the line at a sample tick, and `step_inEnv` lets the slave's pull vary in every other. -/
theorem lineReadOnlyAtSamples : Obligations.LineReadOnlyAtSamples := by
  refine ⟨fun s hc hs => ?_, fun s d hns => ?_⟩
  · have hoe : owOe s.cfg s.owt = false := owOe_at_sample hc hs.2
    exact ⟨prim_of_primSample hs.2, hoe, owIn_eq_H_of_released hoe⟩
  · calc step (setInput { inputNow s with devLow := d } s)
        = inEnv (passTicks 1 (setInput { inputNow s with devLow := d } s)) (step s) :=
          step_inEnv rfl rfl ⟨rfl, rfl, rfl⟩ fun hs => absurd hs hns
      _ = inEnv (passTicks 1 s) (step s) := by rw [passTicks_one_setInput]
      _ = step s := (step_inEnv_self s).symm

/-! ## A run in another environment -/

/-- Settles O30: by induction on the number of ticks, the first one by `step_inEnv`. -/
theorem environmentSeenOnlyAtSamples : Obligations.EnvironmentSeenOnlyAtSamples := by
  intro n
  induction n with
  | zero =>
    intro s s' ho hcfg _ _ t ht
    cases ht
    exact ⟨s', rfl, ho.symm, hcfg.symm⟩
  | succ n ih =>
    intro s s' ho hcfg hhost hpull t ht
    cases hs : step s with
    | next u =>
      obtain ⟨u', hs', hu⟩ : ∃ u', step s' = .next u' ∧ u.owt = u'.owt := by
        rw [step_inEnv ho.symm hcfg.symm (hhost 0 n.succ_pos) (hpull 0 n.succ_pos s rfl), hs]
        exact ⟨_, rfl, rfl⟩
      have hcfg_next : u.cfg = u'.cfg := by rw [cfg_of_step hs, cfg_of_step hs', hcfg]
      rw [runTicks_succ hs] at ht
      rw [runTicks_succ hs']
      refine ih u u' hu hcfg_next (fun j hj => ?_) (fun j hj v hv hsample => ?_) t ht
      · rw [inputAt_of_step hs, inputAt_of_step hs']
        exact hhost (j + 1) (Nat.succ_lt_succ hj)
      · rw [pullAt_of_step hs, pullAt_of_step hs']
        exact hpull (j + 1) (Nat.succ_lt_succ hj) v ((runTicks_succ hs).trans hv) hsample
    | fault f => simp [runTicks, hs] at ht
    | refused r => simp [runTicks, hs] at ht

end Sys2Proof.Proofs
end

section
/-! The decoder and the encoder (30_encoding.md): an equation per opcode, the canonical words, and the statements on
them. -/

namespace Sys2Proof.Proofs

open Sys2Proof.Machine

/-! ## The two fields of a command word (30_encoding.md R90) -/

@[simp] theorem opField_cmdWord (op : BitVec 4) (d : Byte) : opField (cmdWord op d) = op :=
  BitVec.extractLsb'_append_eq_left

@[simp] theorem dField_cmdWord (op : BitVec 4) (d : Byte) : dField (cmdWord op d) = d :=
  BitVec.extractLsb'_append_eq_right

/-- WBIT's operand out of the byte that the encoder pads it to (30_encoding.md R92, R102). -/
theorem bitOperand_setWidth (b : BitVec 1) : bitOperand (b.setWidth 8) = b := by
  revert b
  decide

/-- WBIT's operand is bit 0 of the word (30_encoding.md R90, R92). -/
theorem bitOperand_dField (w : CmdWord) : bitOperand (dField w) = w.extractLsb' 0 1 :=
  BitVec.extractLsb'_extractLsb'_of_le (by decide)

/-- The byte cut down to WBIT's used bit is that bit, padded (30_encoding.md R95, R102). -/
theorem setWidth_bitOperand (d : Byte) : (bitOperand d).setWidth 8 = d &&& 0x01 := by
  revert d
  decide

/-! ## The case list of 30_encoding.md R93, an equation per case -/

/-- The nine cases of R93. -/
theorem op_rows : ∀ op : BitVec 4, 0x8 ≤ op.toNat ∨ op = 0x0 ∨ op = 0x1 ∨ op = 0x2 ∨ op = 0x3 ∨ op = 0x4 ∨
    op = 0x5 ∨ op = 0x6 ∨ op = 0x7 := by
  decide

section
variable {w : CmdWord}

theorem decodeCmd_illegal0 (h : opField w = 0x0) : decodeCmd w = .illegal0 := by simp [decodeCmd, h]

theorem decodeCmd_reset (h : opField w = 0x1) : decodeCmd w = .reset := by simp [decodeCmd, h]

theorem decodeCmd_wbit (h : opField w = 0x2) : decodeCmd w = .wbit (bitOperand (dField w)) := by
  simp [decodeCmd, h]

theorem decodeCmd_rbit (h : opField w = 0x3) : decodeCmd w = .rbit := by simp [decodeCmd, h]

theorem decodeCmd_wbyte (h : opField w = 0x4) : decodeCmd w = .wbyte (dField w) := by simp [decodeCmd, h]

theorem decodeCmd_rbyte (h : opField w = 0x5) : decodeCmd w = .rbyte := by simp [decodeCmd, h]

theorem decodeCmd_rtemp (h : opField w = 0x6) : decodeCmd w = .rtemp := by simp [decodeCmd, h]

theorem decodeCmd_illegal7 (h : opField w = 0x7) : decodeCmd w = .illegal7 := by simp [decodeCmd, h]

theorem decodeCmd_illegal8F (h : 0x8 ≤ (opField w).toNat) : decodeCmd w = .illegal8F (opField w) := by
  unfold decodeCmd
  split
  case h_9 => rfl
  all_goals simp_all

end

/-! ## The names of 30_encoding.md R103 -/

section
variable (i : Instr)

/-- Reading a word under its name is undone by the expansion of the name. -/
theorem pseudoName_cases : pseudoName i = i ∨ expand (pseudoName i) = i := by
  cases i with
  | wbyte v =>
    simp only [pseudoName]
    split_ifs with hSkip hConv hRead
    · exact .inr (by rw [hSkip]; rfl)
    · exact .inr (by rw [hConv]; rfl)
    · exact .inr (by rw [hRead]; rfl)
    · exact .inl rfl
  | _ => exact .inl rfl

theorem encode_expand : encode (expand i) = encode i := by
  cases i <;> rfl

theorem wellFormed_expand : WellFormed (expand i) = WellFormed i := by
  cases i <;> rfl

theorem exec_expand (s : State) : exec (expand i) s = exec i s := by
  cases i <;> rfl

/-- Whatever a name shares with its expansion, a word read under the name keeps. -/
theorem pseudoName_congr {α : Type} {f : Instr → α} (hf : ∀ j, f (expand j) = f j) : f (pseudoName i) = f i := by
  obtain h | h := pseudoName_cases i
  · rw [h]
  · rw [← hf, h]

theorem expand_pseudoName_wbyte (v : Byte) : expand (pseudoName (.wbyte v)) = .wbyte v :=
  pseudoName_congr (.wbyte v) (f := expand) fun j => by cases j <;> rfl

end

theorem pseudoName_eq_self {i : Instr} (h : ∀ v, i = .wbyte v → v ≠ 0xCC ∧ v ≠ 0x44 ∧ v ≠ 0xBE) :
    pseudoName i = i := by
  cases i with
  | wbyte v =>
    obtain ⟨hSkip, hConv, hRead⟩ := h v rfl
    exact (if_neg hSkip).trans ((if_neg hConv).trans (if_neg hRead))
  | _ => rfl

/-! ## Decoding what was encoded -/

/-- Decoding the encoder's word gives the instruction back, under its name where it has one. -/
theorem decode_encode {i : Instr} (h : WellFormed i = true) : decode (encode i) = .ok (pseudoName i) := by
  cases i with
  | reset | rbit | rbyte | rtemp | illegal0 | illegal7 => rfl
  | skipRom | convertT | readScratchpad => rfl
  | wireSkipRom | wireConvertT | wireReadScratchpad => rfl
  | wbit b => rw [encode, decode, decodeCmd_wbit (opField_cmdWord _ _), dField_cmdWord, bitOperand_setWidth]
  | wbyte v => rw [encode, decode, decodeCmd_wbyte (opField_cmdWord _ _), dField_cmdWord]
  | illegal8F op =>
    have hop : 0x8 ≤ (opField (cmdWord op 0)).toNat := by simpa [WellFormed] using h
    rw [encode, decode, decodeCmd_illegal8F hop, opField_cmdWord]

/-- Settles O20: `decode_encode`, and what `pseudoName` does to a WBYTE. -/
theorem decodeEncodeRoundTrip : Obligations.DecodeEncodeRoundTrip := by
  refine ⟨fun i hwf => decode_encode hwf, fun i hwf hNoName => ?_, fun i v hdec => ?_⟩
  · rw [decode_encode hwf, pseudoName_eq_self hNoName]
  · rw [decode_encode rfl] at hdec
    cases hdec
    exact expand_pseudoName_wbyte v

/-! ## Encoding what was decoded -/

/-- The canonical word of a command word: its unused operand bits 0 (30_encoding.md R95, R102). -/
def canonicalWord (w : CmdWord) : CmdWord := cmdWord (opField w) (dField w &&& usedBits w)

theorem usedBits_wbit {w : CmdWord} (h : opField w = 0x2) : usedBits w = 0x01 := by simp [usedBits, h]

theorem usedBits_wbyte {w : CmdWord} (h : opField w = 0x4) : usedBits w = 0xFF := by simp [usedBits, h]

theorem usedBits_eq_zero {w : CmdWord} (h2 : opField w ≠ 0x2) (h4 : opField w ≠ 0x4) : usedBits w = 0x00 := by
  unfold usedBits
  split
  · exact absurd ‹_› h2
  · exact absurd ‹_› h4
  · rfl

theorem canonicalWord_of_unused {w : CmdWord} {op : BitVec 4} (h : opField w = op) (h2 : op ≠ 0x2) (h4 : op ≠ 0x4) :
    canonicalWord w = cmdWord op 0 := by
  rw [canonicalWord, usedBits_eq_zero (h ▸ h2) (h ▸ h4), h]
  exact congrArg (cmdWord op) BitVec.and_zero

theorem wellFormed_decodeCmd (w : CmdWord) : WellFormed (decodeCmd w) = true := by
  rcases op_rows (opField w) with e | e | e | e | e | e | e | e | e
  · rw [decodeCmd_illegal8F e]
    exact decide_eq_true e
  all_goals simp [decodeCmd, e, WellFormed]

/-- The encoder's word of the decoded instruction drops the unused bits and no other. -/
theorem encode_decodeCmd (w : CmdWord) : encode (decodeCmd w) = .cmd (canonicalWord w) := by
  rcases op_rows (opField w) with e | e | e | e | e | e | e | e | e
  · have h2 : opField w ≠ 0x2 := fun h => by simp [h] at e
    have h4 : opField w ≠ 0x4 := fun h => by simp [h] at e
    rw [decodeCmd_illegal8F e, canonicalWord_of_unused rfl h2 h4, encode]
  · rw [decodeCmd_illegal0 e, canonicalWord_of_unused e (by decide) (by decide), encode]
  · rw [decodeCmd_reset e, canonicalWord_of_unused e (by decide) (by decide), encode]
  · rw [decodeCmd_wbit e, encode, setWidth_bitOperand, canonicalWord, usedBits_wbit e, e]
  · rw [decodeCmd_rbit e, canonicalWord_of_unused e (by decide) (by decide), encode]
  · rw [decodeCmd_wbyte e, encode, canonicalWord, usedBits_wbyte e, e]
    exact congrArg (fun d => FetchWord.cmd (cmdWord 0x4 d)) BitVec.and_allOnes.symm
  · rw [decodeCmd_rbyte e, canonicalWord_of_unused e (by decide) (by decide), encode]
  · rw [decodeCmd_rtemp e, canonicalWord_of_unused e (by decide) (by decide), encode]
  · rw [decodeCmd_illegal7 e, canonicalWord_of_unused e (by decide) (by decide), encode]

/-- A word decodes as its canonical word does (30_encoding.md R95). -/
theorem decode_canonicalWord (w : CmdWord) : decode (.cmd (canonicalWord w)) = decode (.cmd w) := by
  rw [← encode_decodeCmd, decode_encode (wellFormed_decodeCmd w), decode_cmd]

/-- Settles O21: the decoded instruction encodes to the canonical word, and the canonical word decodes as the word
itself. -/
theorem ignoredOperandBits : Obligations.IgnoredOperandBits := by
  refine ⟨fun w => ⟨fun h => ?_, usedBits_wbit, usedBits_wbyte⟩, fun w w' hop hd => ?_, fun w i hdec => ?_⟩
  · exact usedBits_eq_zero (fun h2 => by simp [h2] at h) (fun h4 => by simp [h4] at h)
  · have hcanonical : canonicalWord w = canonicalWord w' := congrArg₂ cmdWord hop hd
    rw [← decode_canonicalWord w, hcanonical, decode_canonicalWord]
  · cases hdec
    exact ⟨(pseudoName_congr _ wellFormed_expand).trans (wellFormed_decodeCmd w),
      (pseudoName_congr _ encode_expand).trans (encode_decodeCmd w)⟩

/-! ## The whole decoder -/

/-- Settles O19: R93's case list, by the equation of each case. -/
theorem everyCommandWordDecodes : Obligations.EveryCommandWordDecodes := by
  intro w
  have named {i : Instr} (h : decodeCmd w = i) : pseudoName (decodeCmd w) = pseudoName i := congrArg pseudoName h
  exact ⟨_, decode_cmd w, fun h => named (decodeCmd_reset h),
    fun h => (named (decodeCmd_wbit h)).trans (congrArg Instr.wbit (bitOperand_dField w)),
    fun h => named (decodeCmd_rbit h),
    fun h => (congrArg expand (named (decodeCmd_wbyte h))).trans (expand_pseudoName_wbyte _),
    fun h => named (decodeCmd_rbyte h), fun h => named (decodeCmd_rtemp h), fun h => named (decodeCmd_illegal0 h),
    fun h => named (decodeCmd_illegal7 h), fun h => named (decodeCmd_illegal8F h)⟩

/-- Settles O18: the words of the tables, evaluated. -/
theorem tableWordsDecode : Obligations.TableWordsDecode := by
  unfold Obligations.TableWordsDecode
  decide

/-! ## What the names and the wire bytes do -/

/-- Settles O14: the words by evaluation; the meaning is that of the expansion, WBYTE. -/
theorem pseudoCommandsExpandToWriteByte : Obligations.PseudoCommandsExpandToWriteByte := by
  refine ⟨⟨rfl, rfl, rfl⟩, ⟨rfl, rfl, rfl⟩, fun s i v _ hname => ?_⟩
  have hexpand : expand i = .wbyte v := by
    rcases hname with ⟨rfl, rfl⟩ | ⟨rfl, rfl⟩ | ⟨rfl, rfl⟩ <;> rfl
  have hexec : exec i s = exec (.wbyte v) s := by rw [← exec_expand, hexpand]
  exact ⟨hexec.trans rfl, hexec⟩

theorem execWireSkipRom_elsewhere {s : State} (h1 : s.owt.stage ≠ .rst1) (h2 : s.owt.stage ≠ .rst2) :
    execWireSkipRom s = .fault .wireByteOffSequence := by
  unfold execWireSkipRom
  split
  · contradiction
  · contradiction
  · rfl

theorem execWireConvertT_elsewhere {s : State} (h : s.owt.stage ≠ .skip1) :
    execWireConvertT s = .fault .wireByteOffSequence := by
  unfold execWireConvertT
  split
  · contradiction
  · rfl

theorem execWireReadScratchpad_elsewhere {s : State} (h : s.owt.stage ≠ .skip2) :
    execWireReadScratchpad s = .fault .wireByteOffSequence := by
  unfold execWireReadScratchpad
  split
  · contradiction
  · rfl

/-- Settles O17: each wire byte has an arm for its stages only. -/
theorem wireBytesStopElsewhere : Obligations.WireBytesStopElsewhere :=
  fun _ => ⟨execWireSkipRom_elsewhere, execWireConvertT_elsewhere, execWireReadScratchpad_elsewhere⟩

end Sys2Proof.Proofs
end

section
/-! Runs and the line (30_encoding.md R96 to R99): what a run leaves of the environment, and runs that drive a given
sequence of frames, Busy in every tick of it. -/

namespace Sys2Proof.Proofs

open Sys2Proof.Machine

/-! ## What a run leaves alone -/

section
variable {n : Nat} {s t : State}

/-- What a step keeps or moves on, a run does. -/
theorem runTicks_induction {P : Nat → State → Prop} (h : runTicks n s = .next t) (h0 : P 0 s)
    (hstep : ∀ m u v, P m u → step u = .next v → P (m + 1) v) : P n t := by
  induction n generalizing s P with
  | zero =>
    cases h
    exact h0
  | succ n ih =>
    cases hs : step s with
    | next u =>
      rw [runTicks_succ hs] at h
      exact ih (P := fun m => P (m + 1)) h (hstep 0 s u h0 hs) fun m => hstep (m + 1)
    | fault f => simp [runTicks, hs] at h
    | refused r => simp [runTicks, hs] at h

theorem cfg_of_runTicks (h : runTicks n s = .next t) : t.cfg = s.cfg :=
  runTicks_induction (P := fun _ u => u.cfg = s.cfg) h rfl fun _ _ _ hu hs => (cfg_of_step hs).trans hu

theorem inputAt_of_runTicks (h : runTicks n s = .next t) (j : Nat) : inputAt t j = inputAt s (n + j) :=
  runTicks_induction (P := fun m u => ∀ j, inputAt u j = inputAt s (m + j)) h (by simp)
    (fun m u v hu hs j => by rw [inputAt_of_step hs, hu]; congr 1; omega) j

theorem pullAt_of_runTicks (h : runTicks n s = .next t) (j : Nat) : pullAt t j = pullAt s (n + j) :=
  congrArg TickIn.devLow (inputAt_of_runTicks h j)

theorem inv_of_runTicks (h : runTicks n s = .next t) (hi : Inv s) : Inv t :=
  runTicks_induction (P := fun _ => Inv) h hi fun _ u v => invariantKept u v

end

theorem driveTrace_succ {n : Nat} {s t : State} (h : step s = .next t) :
    driveTrace (n + 1) s = owOe s.cfg s.owt :: driveTrace n t := by
  simp only [driveTrace, h]

/-! ## Frames -/

/-- The frames of a sequence of primitives (30_encoding.md R104). -/
def frames (c : Cfg) (as : List LineAction) : List Bool := as.flatMap (frame c)

@[simp] theorem frames_nil (c : Cfg) : frames c [] = [] := rfl

@[simp] theorem frames_cons (c : Cfg) (a : LineAction) (as : List LineAction) :
    frames c (a :: as) = frame c a ++ frames c as := rfl

@[simp] theorem frames_append (c : Cfg) (as bs : List LineAction) :
    frames c (as ++ bs) = frames c as ++ frames c bs := List.flatMap_append

/-- The primitive in progress, with the bit it sends. -/
def actionOf (o : Owt) : LineAction :=
  match o.prim with
  | .reset => .reset
  | .wslot => .write (sendBit o.sr)
  | .rslot => .read
  | .wait => .wait
  | .none => .wait

/-- Low for the first `l` of `n` ticks, then released. -/
theorem range_map_lt {l n : Nat} (h : l ≤ n) :
    (List.range n).map (fun j => decide (j < l)) = List.replicate l true ++ List.replicate (n - l) false := by
  refine List.ext_getElem (by simp; omega) fun j _ _ => ?_
  simp [List.getElem_append]

theorem slot_bounds {c : Cfg} (hc : CfgWf c) : c.tW1l < c.tSlot ∧ c.tRdl + c.tRds < c.tSlot := by
  obtain ⟨-, -, -, -, hslot, -⟩ := hc
  exact hslot

/-- A primitive drives low for no longer than it lasts. -/
theorem primLowlen_le_primLen {c : Cfg} (hc : CfgWf c) (p : Prim) (sr : Byte) : primLowlen c p sr ≤ primLen c p := by
  obtain ⟨hW1l, hRead⟩ := slot_bounds hc
  cases p with
  | none | wait => exact Nat.zero_le _
  | reset => exact Nat.le_add_right _ _
  | wslot => simp only [primLowlen, primLen, lWslot]; split <;> omega
  | rslot => simp only [primLowlen, primLen, lRslot]; omega

/-- The frame of a primitive is its `len` and `lowlen` (10_state.md R24). -/
theorem frame_actionOf {c : Cfg} {o : Owt} (hc : CfgWf c) (hp : o.prim ≠ .none) :
    frame c (actionOf o) =
      (List.range (primLen c o.prim)).map fun j => decide (j < primLowlen c o.prim o.sr) := by
  rw [range_map_lt (primLowlen_le_primLen hc _ _), actionOf]
  cases h : o.prim with
  | none => exact absurd h hp
  | reset => simp [frame, primLen, primLowlen, lReset]
  | wslot =>
    cases hb : sendBit o.sr with
    | false => simp [frame, primLen, primLowlen, lWslot, hb]
    | true =>
      have hrest : c.tSlot + c.tRec - c.tW1l = c.tSlot - c.tW1l + c.tRec := Nat.sub_add_comm (slot_bounds hc).1.le
      simp [frame, primLen, primLowlen, lWslot, hb, hrest]
  | rslot => rfl
  | wait => rfl

theorem length_frame_actionOf {c : Cfg} {o : Owt} (hc : CfgWf c) (hp : o.prim ≠ .none) :
    (frame c (actionOf o)).length = primLen c o.prim := by
  simp [frame_actionOf hc hp]

/-! ## Runs that drive frames -/

/-- From `s` OWT drives the frames of `as`, Busy in each of their ticks, and is then in `t`. -/
structure Drives (s : State) (as : List LineAction) (t : State) : Prop where
  run : runTicks (frames s.cfg as).length s = .next t
  trace : driveTrace (frames s.cfg as).length s = frames s.cfg as
  busy : ∀ m, m < (frames s.cfg as).length → ∃ u, runTicks m s = .next u ∧ u.owt.run = .busy

theorem Drives.refl (s : State) : Drives s [] s := ⟨rfl, rfl, fun _ hm => absurd hm (Nat.not_lt_zero _)⟩

theorem Drives.append {s t u : State} {as bs : List LineAction} (h : Drives s as t) (h' : Drives t bs u) :
    Drives s (as ++ bs) u := by
  obtain ⟨hrun, htrace, hbusy⟩ := h'
  rw [cfg_of_runTicks h.run] at hrun htrace hbusy
  constructor
  · rw [frames_append, List.length_append, runTicks_add h.run, hrun]
  · rw [frames_append, List.length_append, driveTrace_add h.run, h.trace, htrace]
  · intro m hm
    rw [frames_append, List.length_append] at hm
    by_cases hlt : m < (frames s.cfg as).length
    · exact h.busy m hlt
    · obtain ⟨k, rfl⟩ := Nat.exists_eq_add_of_le (Nat.le_of_not_lt hlt)
      rw [runTicks_add h.run]
      exact hbusy k (by omega)

/-- No reset comes in the `n` ticks from the present one on. -/
def ResetFree (s : State) (n : Nat) : Prop := ∀ j, j < n → (inputAt s j).rst = false

/-- If no reset comes, OWT drives the frames of `as` from `s`, Busy throughout, and is then in a state with `P`. -/
def Leads (s : State) (as : List LineAction) (P : State → Prop) : Prop :=
  ResetFree s (frames s.cfg as).length → ∃ t, Drives s as t ∧ P t

theorem Leads.append {s : State} {as bs : List LineAction} {P Q : State → Prop} (h : Leads s as P)
    (h' : ∀ t, Drives s as t → P t → Leads t bs Q) : Leads s (as ++ bs) Q := by
  intro hr
  rw [frames_append, List.length_append] at hr
  obtain ⟨t, hst, ht⟩ := h fun j hj => hr j (by omega)
  have hrt : ResetFree t (frames t.cfg bs).length := fun j hj => by
    rw [cfg_of_runTicks hst.run] at hj
    rw [inputAt_of_runTicks hst.run]
    exact hr _ (by omega)
  obtain ⟨u, htu, hu⟩ := h' t hst ht hrt
  exact ⟨u, hst.append htu, hu⟩

theorem Leads.mono {s : State} {as : List LineAction} {P Q : State → Prop} (h : Leads s as P)
    (hpq : ∀ t, Drives s as t → P t → Q t) : Leads s as Q := fun hr =>
  let ⟨t, hst, ht⟩ := h hr
  ⟨t, hst, hpq t hst ht⟩

/-! ## One primitive -/

/-- OWT in the first tick of a primitive. -/
structure PrimStart (s : State) : Prop where
  inv : Inv s
  busy : s.owt.run = .busy
  k : s.owt.k = 0

theorem PrimStart.inCommand {s : State} (h : PrimStart s) : InCommand s.cfg s.owt := inCommand_of_inv h.inv h.busy

/-- OWT in the last tick of the primitive that begins now, its sample taken. -/
def lastTick (s : State) : Owt :=
  setK (primLen s.cfg s.owt.prim - 1) (sampledBy s (primLen s.cfg s.owt.prim) s.owt)

section
variable (s : State)

@[simp] theorem lastTick_cmd : (lastTick s).cmd = s.owt.cmd := by
  obtain ⟨_, _, e⟩ := sampledBy_frame s (primLen s.cfg s.owt.prim) s.owt
  rw [lastTick, setK_cmd, e]

@[simp] theorem lastTick_stage : (lastTick s).stage = s.owt.stage := by
  obtain ⟨_, _, e⟩ := sampledBy_frame s (primLen s.cfg s.owt.prim) s.owt
  rw [lastTick, setK_stage, e]

@[simp] theorem lastTick_bitidx : (lastTick s).bitidx = s.owt.bitidx := by
  obtain ⟨_, _, e⟩ := sampledBy_frame s (primLen s.cfg s.owt.prim) s.owt
  rw [lastTick, setK_bitidx, e]

@[simp] theorem lastTick_run : (lastTick s).run = s.owt.run := by simp [lastTick]

@[simp] theorem lastTick_prim : (lastTick s).prim = s.owt.prim := by simp [lastTick]

variable {s}

/-- A write slot samples nothing (10_state.md R24). -/
theorem lastTick_sr (hp : s.owt.prim = .wslot) : (lastTick s).sr = s.owt.sr := by
  simp [lastTick, sampledBy, primSample, hp]

/-- P_RESET samples whether the slave pulls (40_reset_presence.md R121). -/
theorem lastTick_presence (hc : CfgWf s.cfg) (hp : s.owt.prim = .reset) :
    (lastTick s).presence = pullAt s (s.cfg.tRstl + s.cfg.tPds) := by
  obtain ⟨-, -, hPds, -⟩ := hc
  have hbefore : s.cfg.tRstl + s.cfg.tPds < lReset s.cfg := Nat.add_lt_add_left hPds _
  have hlevel : presenceOf (sampleLevel s (s.cfg.tRstl + s.cfg.tPds)) = pullAt s (s.cfg.tRstl + s.cfg.tPds) := by
    cases h : pullAt s (s.cfg.tRstl + s.cfg.tPds) <;> simp [presenceOf, sampleLevel, lineLevel, h]
  simp [lastTick, sampledBy, primSample, primLen, latch, hp, hbefore, hlevel]

end

/-- The end of a primitive leaves OWT at tick 0 of the next one, or Idle. -/
theorem endMove_k {o o' : Owt} (h : EndMove o o') : o'.k = 0 := by
  cases h <;> rfl

/-- A whole primitive: its frame, then one of the moves. -/
theorem PrimStart.leads {s : State} (h : PrimStart s) :
    Leads s [actionOf s.owt] fun t => EndMove (lastTick s) t.owt := by
  have hc := h.inv.cfgWf
  have hn := h.inCommand.prim_ne_none
  have hframe : frames s.cfg [actionOf s.owt] = frame s.cfg (actionOf s.owt) := List.append_nil _
  have hlen : (frames s.cfg [actionOf s.owt]).length = primLen s.cfg s.owt.prim := by
    rw [hframe, length_frame_actionOf hc hn]
  intro hr
  rw [hlen] at hr
  obtain ⟨o', hmove, hrun⟩ := runTicks_primitive_move hc h.busy h.inCommand.prim hn h.k hr
  refine ⟨setOwt o' (passTicks (primLen s.cfg s.owt.prim) s), ⟨?_, ?_, ?_⟩, hmove⟩
  · rw [hlen, hrun]
  · rw [hlen, driveTrace_primitive hc h.busy hn h.k le_rfl hr, hframe, frame_actionOf hc hn]
  · intro m hm
    rw [hlen] at hm
    exact ⟨_, runTicks_primitive hc h.busy hn h.k hm fun j hj => hr j (by omega), by simpa using h.busy⟩

/-- A move that stays inside the command starts a primitive. -/
theorem PrimStart.next {s t : State} {as : List LineAction} {o : Owt} (h : PrimStart s) (hd : Drives s as t)
    (hm : EndMove o t.owt) (hc : t.owt.cmd ≠ .none) : PrimStart t := by
  have hi : Inv t := inv_of_runTicks hd.run h.inv
  refine ⟨hi, ?_, endMove_k hm⟩
  cases hb : t.owt.run with
  | idle => exact absurd (hi.reachable.idleCmd.1 hb) hc
  | busy => rfl

end Sys2Proof.Proofs
end

section
/-! Whole commands on the line (30_encoding.md R99, R104): the slots of a byte, the stages of RTEMP, and every command
from its accept to its end. -/

namespace Sys2Proof.Proofs

open Sys2Proof.Machine

/-! ## The slots of a byte (42_byte_serialization.md R161, R164) -/

/-- `n` slots of a byte, the present one first: the bits of `sr` from bit 0 up, or reads. -/
def slotActions (n : Nat) (o : Owt) : List LineAction :=
  if o.prim = .wslot then (List.range n).map fun i => .write (o.sr.getLsbD i) else List.replicate n .read

theorem shiftOut_eq_ushiftRight (sr : Byte) : shiftOut sr = sr >>> 1 := by
  revert sr
  decide

@[simp] theorem slotActions_zero (o : Owt) : slotActions 0 o = [] := by simp [slotActions]

theorem slotActions_succ {o : Owt} (hp : o.prim = .wslot ∨ o.prim = .rslot) (n : Nat) :
    slotActions (n + 1) o = actionOf o :: slotActions n (shiftSlot o) := by
  obtain hp | hp := hp
  · simp [slotActions, actionOf, hp, List.range_succ_eq_map, sendBit, shiftOut_eq_ushiftRight, Function.comp_def,
      Nat.add_comm 1]
  · simp [slotActions, actionOf, hp, List.replicate_succ]

theorem slotActions_congr {o o' : Owt} (hp : o.prim = o'.prim) (hsr : o.prim = .wslot → o.sr = o'.sr) (n : Nat) :
    slotActions n o = slotActions n o' := by
  by_cases h : o.prim = .wslot
  · simp [slotActions, ← hp, ← hsr h]
  · simp [slotActions, ← hp, h]

/-- The end of a slot that another slot of the byte follows, field by field. -/
theorem endMove_slot_next {s t : State} (h : EndMove (lastTick s) t.owt)
    (hm : movesByte s.owt.cmd s.owt.stage = true) (hi : s.owt.bitidx ≠ 7) :
    t.owt.cmd = s.owt.cmd ∧ t.owt.stage = s.owt.stage ∧ t.owt.prim = s.owt.prim ∧
      t.owt.bitidx = s.owt.bitidx + 1 ∧ (s.owt.prim = .wslot → t.owt.sr = shiftOut s.owt.sr) := by
  rw [h.eq_nextSlot (by simpa using hm) (by simpa using hi), lastTick_prim]
  split
  · next hp => simp [lastTick_sr hp]
  · next hp => simp [hp]

/-- What holds at the last tick of a stage that begins in the present tick of `s`: the byte is at its last slot, and
`presence` is the slave's answer to a reset. -/
structure StageEnd (s : State) (o : Owt) : Prop where
  cmd : o.cmd = s.owt.cmd
  stage : o.stage = s.owt.stage
  lastSlot : movesByte o.cmd o.stage = true → o.bitidx = 7
  presence : s.owt.prim = .reset → o.presence = pullAt s (s.cfg.tRstl + s.cfg.tPds)

/-- The last `n + 1` slots of a byte. -/
theorem PrimStart.slots_lead (n : Nat) {s : State} (h : PrimStart s) (hm : movesByte s.owt.cmd s.owt.stage = true)
    (hi : s.owt.bitidx.toNat + n = 7) :
    Leads s (slotActions (n + 1) s.owt) fun t => ∃ o, StageEnd s o ∧ EndMove o t.owt := by
  induction n generalizing s with
  | zero =>
    have hp := slot_prim h.inCommand.prim hm
    have h7 : s.owt.bitidx = 7 := BitVec.eq_of_toNat_eq hi
    rw [slotActions_succ hp, slotActions_zero]
    refine h.leads.mono fun t _ hmove => ⟨lastTick s, ⟨by simp, by simp, by simp [h7], fun hr => ?_⟩, hmove⟩
    exact lastTick_presence h.inv.cfgWf hr
  | succ n ih =>
    have hp := slot_prim h.inCommand.prim hm
    have h7 : s.owt.bitidx ≠ 7 := fun e => by simp [e] at hi
    rw [slotActions_succ hp]
    refine h.leads.append (bs := slotActions (n + 1) (shiftSlot s.owt)) fun t hd hmove => ?_
    obtain ⟨hcmd, hstage, hprim, hbit, hsr⟩ := endMove_slot_next hmove hm h7
    have hbit' : t.owt.bitidx.toNat + n = 7 := by
      rw [hbit, BitVec.toNat_add]
      simp
      omega
    rw [slotActions_congr (o' := t.owt) (by simp [hprim]) (by simpa using fun hw => (hsr hw).symm)]
    refine (ih (h.next hd hmove (hcmd ▸ h.inCommand.cmd)) (by rw [hcmd, hstage, hm]) hbit').mono ?_
    rintro u - ⟨o, hend, hlast⟩
    refine ⟨o, ⟨hend.cmd.trans hcmd, hend.stage.trans hstage, hend.lastSlot, fun hr => ?_⟩, hlast⟩
    rcases hp with hp | hp <;> simp [hp] at hr

/-! ## A stage: a byte, or one primitive -/

/-- What a command drives from its first tick, or RTEMP from the first tick of a stage: a byte moved slot by slot, or
one primitive. -/
def stageActions (o : Owt) : List LineAction := if movesByte o.cmd o.stage then slotActions 8 o else [actionOf o]

theorem PrimStart.stage_leads {s : State} (h : PrimStart s) (h0 : s.owt.bitidx = 0) :
    Leads s (stageActions s.owt) fun t => ∃ o, StageEnd s o ∧ EndMove o t.owt := by
  unfold stageActions
  split
  · next hm => exact h.slots_lead 7 hm (by simp [h0])
  · next hm =>
    refine h.leads.mono fun t _ hmove => ⟨lastTick s, ⟨by simp, by simp, fun hb => ?_, fun hr => ?_⟩, hmove⟩
    · exact absurd (by simpa using hb) hm
    · exact lastTick_presence h.inv.cfgWf hr

/-! ## The end of a command -/

/-- OWT has completed a command (10_state.md R31). -/
def Completed (t : State) : Prop := t.owt.run = .idle ∧ t.owt.done = true

theorem movesByte_of_write {o : Owt} (hc : o.cmd = .rtemp)
    (hs : o.stage = .skip1 ∨ o.stage = .conv ∨ o.stage = .skip2 ∨ o.stage = .rdsp) :
    movesByte o.cmd o.stage = true := by
  rcases hs with hs | hs | hs | hs <;> simp [hc, hs, movesByte]

theorem movesByte_of_read {o : Owt} (hc : o.cmd = .rtemp) (hs : o.stage = .lsb ∨ o.stage = .msb) :
    movesByte o.cmd o.stage = true := by
  rcases hs with hs | hs <;> simp [hc, hs, movesByte]

/-- The last move of a command: of any but RTEMP, of RTEMP's last byte, and of a reset that nobody answered. -/
theorem endMove_completes {o o' : Owt} (h : EndMove o o') (h7 : movesByte o.cmd o.stage = true → o.bitidx = 7)
    (hlast : o.cmd = .rtemp → o.stage = .msb ∨ primFor .rtemp o.stage = .reset ∧ o.presence = false) :
    o'.run = .idle ∧ o'.done = true := by
  cases h
  case reset | wbit | rbit | wbyteDone | rbyteDone | abort | rtempDone => exact ⟨rfl, rfl⟩
  case wbyteNext hc _ hi | rbyteNext hc _ hi => exact absurd (h7 (by simp [hc, movesByte])) hi
  case rtempWriteNext hc _ hs hi => exact absurd (h7 (movesByte_of_write hc hs)) hi
  case rtempReadNext hc _ hs hi => exact absurd (h7 (movesByte_of_read hc hs)) hi
  all_goals simp_all [primFor]

/-- The commands but for RTEMP are one stage. -/
theorem PrimStart.command_leads {s : State} (h : PrimStart s) (h0 : s.owt.bitidx = 0) (hc : s.owt.cmd ≠ .rtemp) :
    Leads s (stageActions s.owt) Completed := by
  refine (h.stage_leads h0).mono ?_
  rintro t - ⟨o, hend, hmove⟩
  exact endMove_completes hmove hend.lastSlot fun hr => absurd (hend.cmd.symm.trans hr) hc

/-! ## The stages of RTEMP (43_thermal_sequencer.md R180) -/

/-- The byte that a stage of RTEMP writes (43_thermal_sequencer.md R192 to R194); 0 for a stage that writes none. -/
def stageByte : Stage → Byte
  | .skip1 | .skip2 => skipRomByte
  | .conv => convertTByte
  | .rdsp => readScratchpadByte
  | .none | .rst1 | .wait | .rst2 | .lsb | .msb => 0

/-- What a stage of RTEMP drives. -/
def stageLine : Stage → List LineAction
  | .none => []
  | .rst1 | .rst2 => [.reset]
  | .wait => [.wait]
  | .lsb | .msb => readByteActions
  | .skip1 | .skip2 => writeByteActions skipRomByte
  | .conv => writeByteActions convertTByte
  | .rdsp => writeByteActions readScratchpadByte

/-- OWT in the first tick of a stage of RTEMP. -/
structure StageStart (s : State) (st : Stage) : Prop extends PrimStart s where
  cmd : s.owt.cmd = .rtemp
  stage : s.owt.stage = st
  bitidx : s.owt.bitidx = 0
  byte : s.owt.prim = .wslot → s.owt.sr = stageByte st

section
variable {s : State} {st : Stage}

theorem StageStart.prim (h : StageStart s st) : s.owt.prim = primFor .rtemp st := by
  rw [h.inCommand.prim, h.cmd, h.stage]

theorem StageStart.stageActions_eq (h : StageStart s st) : stageActions s.owt = stageLine st := by
  have hp := h.prim
  have hb := h.byte
  have hne : st ≠ .none := h.stage ▸ h.inCommand.stage.2 h.cmd
  unfold stageActions
  rw [h.cmd, h.stage]
  cases st with
  | none => exact absurd rfl hne
  | rst1 | wait | rst2 => simp [movesByte, actionOf, hp, primFor, stageLine]
  | lsb | msb => simp [movesByte, slotActions, hp, primFor, stageLine, readByteActions]
  | skip1 | conv | skip2 | rdsp =>
    simp [movesByte, slotActions, hp, hb hp, primFor, stageLine, stageByte, writeByteActions]

/-- Between two stages of RTEMP: the next stage begins. -/
theorem endMove_nextStage {o o' : Owt} (h : EndMove o o') (hc : o.cmd = .rtemp)
    (h7 : movesByte o.cmd o.stage = true → o.bitidx = 7) (hne : o.stage ≠ .msb)
    (hq : primFor .rtemp o.stage = .reset → o.presence = true) :
    o'.cmd = .rtemp ∧ o'.stage = nextStage o.stage ∧
      (o'.prim = .wslot → o'.sr = stageByte o'.stage) ∧ (o'.bitidx = 0 ∨ o'.stage = .rst2) := by
  cases h
  case rtempWriteNext _ hs hi => exact absurd (h7 (movesByte_of_write hc hs)) hi
  case rtempReadNext _ hs hi => exact absurd (h7 (movesByte_of_read hc hs)) hi
  case abort _ hs hq' => rcases hs with hs | hs <;> simp [hs, hq', primFor] at hq
  case rtempDone _ hs _ => exact absurd hs hne
  all_goals simp_all [nextStage, stageByte]

/-- A stage of RTEMP that another follows. -/
theorem StageStart.next (h : StageStart s st) (hne : st ≠ .msb)
    (hq : primFor .rtemp st = .reset → pullAt s (s.cfg.tRstl + s.cfg.tPds) = true) :
    Leads s (stageLine st) fun t => StageStart t (nextStage st) := by
  rw [← h.stageActions_eq]
  refine (h.stage_leads h.bitidx).mono ?_
  rintro t hd ⟨o, hend, hmove⟩
  have hcmd : o.cmd = .rtemp := hend.cmd.trans h.cmd
  have hstage : o.stage = st := hend.stage.trans h.stage
  obtain ⟨hcmd', hstage', hbyte, hbit⟩ := endMove_nextStage hmove hcmd hend.lastSlot (hstage ▸ hne) fun hr => by
    rw [hstage, ← h.prim] at hr
    exact (hend.presence hr).trans (hq (h.prim.symm.trans hr))
  have hnext : PrimStart t := h.toPrimStart.next hd hmove (by simp [hcmd'])
  rw [hstage] at hstage'
  refine ⟨hnext, hcmd', hstage', hbit.elim id fun hr => ?_, fun hw => hstage' ▸ hbyte hw⟩
  by_contra hb
  simpa [hcmd', hr, movesByte] using hnext.inCommand.bitidx hb

/-- The last stage of an RTEMP: its last byte, or a reset that nobody answered. -/
theorem StageStart.completes (h : StageStart s st)
    (hlast : st = .msb ∨ primFor .rtemp st = .reset ∧ pullAt s (s.cfg.tRstl + s.cfg.tPds) = false) :
    Leads s (stageLine st) Completed := by
  rw [← h.stageActions_eq]
  refine (h.stage_leads h.bitidx).mono ?_
  rintro t - ⟨o, hend, hmove⟩
  refine endMove_completes hmove hend.lastSlot fun _ => ?_
  rw [hend.stage, h.stage]
  exact hlast.imp_right fun ⟨hr, hq⟩ => ⟨hr, (hend.presence (h.prim.trans hr)).trans hq⟩

/-- A stage of RTEMP without a reset, that another follows. -/
theorem StageStart.next_unsampled (h : StageStart s st) (hne : st ≠ .msb := by decide)
    (hp : primFor .rtemp st ≠ .reset := by decide) : Leads s (stageLine st) fun t => StageStart t (nextStage st) :=
  h.next hne fun hr => absurd hr hp

/-- The first reset of RTEMP, answered, up to the second. -/
theorem StageStart.rst1_answered (h : StageStart s .rst1) (hq : pullAt s (s.cfg.tRstl + s.cfg.tPds) = true) :
    Leads s ([.reset] ++ writeByteActions 0xCC ++ writeByteActions 0x44 ++ [.wait]) fun t => StageStart t .rst2 :=
  (((h.next (by decide) fun _ => hq)
    |>.append fun _ _ hSkip1 => hSkip1.next_unsampled)
    |>.append fun _ _ hConv => hConv.next_unsampled)
    |>.append fun _ _ hWait => hWait.next_unsampled

/-- The second reset of RTEMP, answered, up to the end. -/
theorem StageStart.rst2_answered (h : StageStart s .rst2) (hq : pullAt s (s.cfg.tRstl + s.cfg.tPds) = true) :
    Leads s ([.reset] ++ writeByteActions 0xCC ++ writeByteActions 0xBE ++ readByteActions ++ readByteActions)
      Completed :=
  ((((h.next (by decide) fun _ => hq)
    |>.append fun _ _ hSkip2 => hSkip2.next_unsampled)
    |>.append fun _ _ hRdsp => hRdsp.next_unsampled)
    |>.append fun _ _ hLsb => hLsb.next_unsampled)
    |>.append fun _ _ hMsb => hMsb.completes (.inl rfl)

end

/-! ## The counts of 70_reset_and_hazards.md R255 -/

section
variable {c : Cfg} (hc : CfgWf c)
include hc

theorem length_frame_write (b : Bool) : (frame c (.write b)).length = lWslot c := by
  have hW1l := (slot_bounds hc).1
  cases b with
  | false => simp [frame, lWslot]
  | true =>
    simp [frame, lWslot]
    omega

theorem length_frame_read : (frame c .read).length = lRslot c := by
  have hRead := (slot_bounds hc).2
  simp [frame, lRslot]
  omega

theorem length_frames_writeByteActions (v : Byte) : (frames c (writeByteActions v)).length = 8 * lWslot c := by
  simp [frames, writeByteActions, List.length_flatMap, length_frame_write hc, Function.comp_def]
  omega

theorem length_frames_readByteActions : (frames c readByteActions).length = 8 * lRslot c := by
  simp [frames, readByteActions, length_frame_read hc]
  omega

/-- The Busy ticks of a command are the ticks of its frames. -/
theorem length_frames_actions (i : Instr) (p1 p2 : Bool) :
    (frames c (actions i p1 p2)).length = busyTicks c i p1 p2 := by
  have hWrite := length_frames_writeByteActions hc
  have hRead := length_frames_readByteActions hc
  have hReset : (frame c .reset).length = lReset c := by simp [frame, lReset]
  have hWait : (frame c .wait).length = c.tConv := by simp [frame]
  cases i with
  | rtemp =>
    cases p1 <;> cases p2 <;> simp [actions, busyTicks, hWrite, hRead, hReset, hWait] <;> omega
  | _ => simp [actions, busyTicks, hWrite, hRead, hReset, length_frame_write hc, length_frame_read hc]

end

/-! ## From the accept to the end -/

/-- The whole of RTEMP from its first tick, in its three courses (43_thermal_sequencer.md R202). -/
theorem StageStart.rtemp_leads {s : State} (h : StageStart s .rst1) {p1 p2 : Bool}
    (hp1 : p1 = pullAt s (s.cfg.tRstl + s.cfg.tPds))
    (hp2 : p2 = pullAt s (lReset s.cfg + 16 * lWslot s.cfg + s.cfg.tConv + s.cfg.tRstl + s.cfg.tPds)) :
    Leads s (actions .rtemp p1 p2) Completed := by
  have hc := h.inv.cfgWf
  have hsecond {t : State} (hd : Drives s ([.reset] ++ writeByteActions 0xCC ++ writeByteActions 0x44 ++ [.wait]) t) :
      pullAt t (t.cfg.tRstl + t.cfg.tPds) = p2 := by
    rw [cfg_of_runTicks hd.run, pullAt_of_runTicks hd.run, hp2]
    congr 1
    simp [length_frames_writeByteActions hc, frame, lReset]
    omega
  cases p1 with
  | false => exact h.completes (.inr ⟨rfl, hp1.symm⟩)
  | true =>
    cases p2 with
    | false =>
      have := (h.rst1_answered hp1.symm).append fun t hd ht => ht.completes (.inr ⟨rfl, hsecond hd⟩)
      simpa [actions, stageLine] using this
    | true =>
      have := (h.rst1_answered hp1.symm).append fun t hd ht => ht.rst2_answered (hsecond hd)
      simpa [actions] using this

theorem Accepted.start {o o' : Owt} (h : Accepted o o') : o'.k = 0 ∧ o'.bitidx = 0 := by
  cases h <;> exact ⟨rfl, rfl⟩

section
variable {w : CmdWord}

/-- A legal word but for RTEMP's starts the one stage of its command. -/
theorem stageActions_acceptWord (hl : legalOp (opField w) = true) (h6 : opField w ≠ 0x6) (o : Owt) (p1 p2 : Bool) :
    stageActions (acceptWord w o) = actions (decodeCmd w) p1 p2 ∧ (acceptWord w o).cmd ≠ .rtemp := by
  rcases legalOp_cases _ hl with e | e | e | e | e | e
  · rw [acceptWord, e, decodeCmd_reset e]
    exact ⟨rfl, nofun⟩
  · have hbit (b : BitVec 1) : sendBit (zext8 b) = b.getLsbD 0 := by simp [sendBit, zext8]
    rw [acceptWord, e, decodeCmd_wbit e, actions, ← hbit]
    exact ⟨rfl, nofun⟩
  · rw [acceptWord, e, decodeCmd_rbit e]
    exact ⟨rfl, nofun⟩
  · rw [acceptWord, e, decodeCmd_wbyte e]
    exact ⟨rfl, nofun⟩
  · rw [acceptWord, e, decodeCmd_rbyte e]
    exact ⟨rfl, nofun⟩
  · exact absurd e h6

/-- The illegal opcodes (30_encoding.md R94). -/
theorem illegalOp_cases : ∀ op : BitVec 4, legalOp op = false → op = 0x0 ∨ op = 0x7 ∨ 0x8 ≤ op.toNat := by
  decide

theorem actions_of_illegal (hl : legalOp (opField w) = false) (p1 p2 : Bool) : actions (decodeCmd w) p1 p2 = [] := by
  rcases illegalOp_cases _ hl with e | e | e
  · rw [decodeCmd_illegal0 e, actions]
  · rw [decodeCmd_illegal7 e, actions]
  · rw [decodeCmd_illegal8F e, actions]

/-- From the tick after the accept, a word drives the frames of its instruction and then OWT is Idle with `done`. -/
theorem acceptWord_leads {s : State} {p1 p2 : Bool} (hc : CfgWf s.cfg) (hi : s.owt.run = .idle)
    (hp1 : p1 = pullAt s (s.cfg.tRstl + s.cfg.tPds))
    (hp2 : p2 = pullAt s (lReset s.cfg + 16 * lWslot s.cfg + s.cfg.tConv + s.cfg.tRstl + s.cfg.tPds)) :
    Leads (setOwt (acceptWord w s.owt) s) (actions (decodeCmd w) p1 p2) Completed := by
  cases hl : legalOp (opField w) with
  | false =>
    rw [actions_of_illegal hl, acceptWord_illegal _ hl]
    exact fun _ => ⟨_, Drives.refl _, hi, rfl⟩
  | true =>
    have hacc := acceptWord_legal s.owt hl
    have hin : InCommand s.cfg (acceptWord w s.owt) := hacc.inCommand hc
    have hstart : PrimStart (setOwt (acceptWord w s.owt) s) :=
      ⟨inv_iff.2 ⟨hc, .inr hin⟩, hin.run, hacc.start.1⟩
    by_cases h6 : opField w = 0x6
    · have hrtemp : acceptWord w s.owt = acceptRtemp s.owt := by simp [acceptWord, h6]
      rw [hrtemp] at hstart ⊢
      rw [decodeCmd_rtemp h6]
      exact StageStart.rtemp_leads ⟨hstart, rfl, rfl, rfl, fun h => by cases h⟩ hp1 hp2
    · obtain ⟨hline, hcmd⟩ := stageActions_acceptWord hl h6 s.owt p1 p2
      rw [← hline]
      exact hstart.command_leads hacc.start.2 hcmd

end

/-- The accepting tick of a word, and what it leads to; `p1` and `p2` are the slave's answers to the resets of an
RTEMP. -/
theorem word_leads {s : State} {w : CmdWord} {p1 p2 : Bool} (hc : CfgWf s.cfg) (hi : s.owt.run = .idle)
    (hw : Presents s w) (hp1 : p1 = pullAt s (1 + s.cfg.tRstl + s.cfg.tPds))
    (hp2 : p2 = pullAt s (1 + lReset s.cfg + 16 * lWslot s.cfg + s.cfg.tConv + s.cfg.tRstl + s.cfg.tPds)) :
    ∃ t, step s = .next t ∧ Leads t (actions (decodeCmd w) p1 p2) Completed := by
  obtain ⟨hrst, hvalid, hword⟩ := hw
  refine ⟨_, step_word_accept hc hrst hi hvalid, ?_⟩
  rw [hword]
  exact acceptWord_leads (s := passTicks 1 s) hc hi (by simpa [pullAt, Nat.add_assoc] using hp1)
    (by simpa [pullAt, Nat.add_assoc] using hp2)

theorem actions_expand (i : Instr) (p1 p2 : Bool) : actions (expand i) p1 p2 = actions i p1 p2 := by
  cases i <;> rfl

theorem busyTicks_expand (c : Cfg) (i : Instr) (p1 p2 : Bool) : busyTicks c (expand i) p1 p2 = busyTicks c i p1 p2 := by
  cases i <;> rfl

/-- Settles O48: the default counts by evaluation; the accepting tick with the line released, then `word_leads`. -/
theorem commandsDriveTheirFrames : Obligations.CommandsDriveTheirFrames := by
  refine ⟨⟨rfl, fun _ => rfl, rfl, fun _ => rfl, rfl, rfl, fun _ => rfl, rfl⟩, ?_⟩
  intro s w i p1 p2 hc hi hw hdec hp1 hp2 hr
  cases hdec
  rw [pseudoName_congr (decodeCmd w) (f := fun j => busyTicks s.cfg j p1 p2) fun j => busyTicks_expand _ j p1 p2]
    at hr ⊢
  rw [pseudoName_congr (decodeCmd w) (f := fun j => actions j p1 p2) fun j => actions_expand j p1 p2]
  obtain ⟨u, hstep, hleads⟩ := word_leads hc hi hw hp1 hp2
  have hlen : (frames u.cfg (actions (decodeCmd w) p1 p2)).length = busyTicks s.cfg (decodeCmd w) p1 p2 := by
    rw [cfg_of_step hstep, length_frames_actions hc]
  obtain ⟨t, ⟨hrun, htrace, hbusy⟩, hdone⟩ := hleads fun j hj => by
    rw [inputAt_of_step hstep, Nat.add_comm]
    exact hr j (hlen ▸ hj)
  rw [hlen] at hrun htrace hbusy
  refine ⟨?_, fun n h1 hn => ?_, t, ?_, hdone⟩
  · have hreleased : owOe s.cfg s.owt = false := by simp [owOe, hi]
    rw [Nat.add_comm, driveTrace_succ hstep, hreleased, htrace, cfg_of_step hstep, frames]
  · obtain ⟨m, rfl⟩ := Nat.exists_eq_add_of_le' h1
    rw [runTicks_succ hstep]
    exact hbusy m hn
  · rw [Nat.add_comm, runTicks_succ hstep, hrun]

end Sys2Proof.Proofs
end

section
/-! RESET and presence (40_reset_presence.md): what a sample tick writes, the accept of RESET, and a command of one
primitive from its accept to its end. -/

namespace Sys2Proof.Proofs

open Sys2Proof.Machine

/-! ## What a sample reads (20_memory.md R61, R64) -/

/-- On the released line the presence flag is the slave's pull (40_reset_presence.md R121). -/
@[simp] theorem presenceOf_released (d : Bool) : presenceOf (lineLevel false d) = d := by
  cases d <;> rfl

/-- On the released line a slave that pulls sends 0 (41_bit_slots.md R145). -/
@[simp] theorem levelBit_released (d : Bool) : levelBit (lineLevel false d) = BitVec.ofBool (!d) := by
  cases d <;> rfl

theorem sampled_at_sample {s : State} (hc : CfgWf s.cfg) (hs : AtSample s) :
    sampled s.cfg (owIn s) s.owt = latch (lineLevel false (inputNow s).devLow) s.owt := by
  have hlevel : owIn s = lineLevel false (inputNow s).devLow := by rw [owIn, owOe_at_sample hc hs.2]
  rw [sampled, if_pos hs.2, hlevel]

/-- A sample tick that is not the last of its primitive latches what the released line shows, and counts. -/
theorem step_at_sample {s : State} (hi : Inv s) (hr : (inputNow s).rst = false) (hs : AtSample s)
    (hne : ¬AtPrimEnd s) :
    step s = .next (setOwt (setK (s.owt.k + 1) (latch (lineLevel false (inputNow s).devLow) s.owt))
      (passTicks 1 s)) := by
  obtain ⟨-, -, hstep⟩ | ⟨he, -⟩ := step_busy_moves hi hr hs.1
  · rw [hstep, sampled_at_sample hi.cfgWf hs]
  · exact absurd he hne

/-- Settles O27: `step_at_sample`, the latch being that of the primitive. -/
theorem sampleTickLatches : Obligations.SampleTickLatches := by
  intro s hi hr hs hne
  have hstep := step_at_sample hi hr hs hne
  refine ⟨fun hp => ?_, fun hp => ?_⟩
  · rw [hstep, latch_reset _ hp, presenceOf_released]
    rfl
  · rw [hstep, latch_rslot _ hp, levelBit_released]
    rfl

/-! ## The accept of RESET -/

theorem acceptWord_reset {w : CmdWord} (h : opField w = 0x1) (o : Owt) : acceptWord w o = acceptReset o := by
  simp [acceptWord, h]

/-- Settles O8: RESET's case of the decoder and of the encoder; its meaning is `acceptReset`, field by field. -/
theorem resetCommandAccepted : Obligations.ResetCommandAccepted := by
  refine ⟨fun w h => ?_, rfl, fun s _ => rfl⟩
  rw [decode_cmd, decodeCmd_reset h]
  rfl

/-! ## A command of one primitive, from its accept to its end -/

/-- The outcome of a transfer replaces `owt`, whatever it was. -/
theorem finish_setOwt (o : Owt) (t : State) (x : Transfer) : finish (setOwt o t) x = finish t x := by
  cases x <;> rfl

/-- A legal word, taken, runs its first primitive to the end of it. -/
theorem runTicks_accept_primitive {s : State} {w : CmdWord} {o : Owt} {n : Nat} (hc : CfgWf s.cfg)
    (hi : s.owt.run = .idle) (hl : legalOp (opField w) = true) (ho : acceptWord w s.owt = o) (hw : Presents s w)
    (hn : primLen s.cfg o.prim = n) (hr : NoResetFor s n) :
    runTicks (1 + n) s = finish (passTicks (1 + n) s) (endPrim (lastTick (setOwt o (passTicks 1 s)))) := by
  subst ho hn
  obtain ⟨hrst, hvalid, rfl⟩ := hw
  have haccept := acceptWord_legal s.owt hl
  have hin : InCommand s.cfg (acceptWord (inputNow s).cmdWord s.owt) := haccept.inCommand hc
  have hprim := runTicks_primitive_end (s := setOwt (acceptWord (inputNow s).cmdWord s.owt) (passTicks 1 s)) hc hin.run
    hin.prim_ne_none haccept.start.1 fun j hj => by simpa using hr j hj
  rw [← lastTick, passTicks_setOwt, finish_setOwt, passTicks_add] at hprim
  rw [Nat.add_comm, runTicks_succ (step_word_accept hc hrst hi hvalid), Nat.add_comm]
  exact hprim

/-! ## The last tick of a primitive that samples -/

/-- A sample comes before the end of its primitive (00_scope.md R8). -/
theorem primSample_lt_primLen {c : Cfg} (hc : CfgWf c) {p : Prim} {m : Nat} (hm : primSample c p = some m) :
    m < primLen c p := by
  obtain ⟨-, -, hPds, -, ⟨-, hRead⟩, -⟩ := hc
  cases p with
  | reset =>
    cases hm
    exact Nat.add_lt_add_left hPds _
  | rslot =>
    cases hm
    exact hRead
  | none | wslot | wait => cases hm

/-- By the last tick of a primitive that samples, what the released line showed at its sample tick is latched. -/
theorem lastTick_of_primSample {s : State} (hc : CfgWf s.cfg) {m : Nat} (hm : primSample s.cfg s.owt.prim = some m) :
    lastTick s = setK (primLen s.cfg s.owt.prim - 1) (latch (lineLevel false (pullAt s m)) s.owt) := by
  simp [lastTick, sampledBy, hm, primSample_lt_primLen hc hm, sampleLevel]

/-! ## The whole of RESET -/

theorem endPrim_reset {o : Owt} (hc : o.cmd = .reset) (hp : o.prim = .reset) : endPrim o = .goto (resetEnd o) := by
  simp [endPrim, hc, hp]

/-- P_RESET at its last tick, `presence` being the slave's answer at the sample tick (40_reset_presence.md R121). -/
theorem lastTick_reset {s : State} (hc : CfgWf s.cfg) (hp : s.owt.prim = .reset) :
    lastTick s = setK (lReset s.cfg - 1) { s.owt with presence := pullAt s (s.cfg.tRstl + s.cfg.tPds) } := by
  have hsample : primSample s.cfg s.owt.prim = some (s.cfg.tRstl + s.cfg.tPds) := by rw [hp, primSample]
  have hlen : primLen s.cfg s.owt.prim = lReset s.cfg := by rw [hp, primLen]
  rw [lastTick_of_primSample hc hsample, latch_reset _ hp, presenceOf_released, hlen]

/-- Settles O42: the accept and its one primitive by `runTicks_accept_primitive`, then the end of RESET from the last
tick of P_RESET. -/
theorem resetCommandRun : Obligations.ResetCommandRun := by
  intro s w hc hi hop hw hr p hp
  have hlegal : legalOp (opField w) = true := by rw [hop]; rfl
  have hpull : pullAt (passTicks 1 s) (s.cfg.tRstl + s.cfg.tPds) = p := by simp [hp, pullAt, Nat.add_assoc]
  have hlast : lastTick (setOwt (acceptReset s.owt) (passTicks 1 s)) =
      setK (lReset s.cfg - 1) { acceptReset s.owt with presence := p } := by
    rw [← hpull]
    exact lastTick_reset hc rfl
  have hlen : primLen s.cfg (acceptReset s.owt).prim = lReset s.cfg := rfl
  rw [runTicks_accept_primitive hc hi hlegal (acceptWord_reset hop s.owt) hw hlen hr, hlast, endPrim_reset rfl rfl]
  rfl

end Sys2Proof.Proofs
end

section
/-! WBIT and RBIT (41_bit_slots.md): their accepts, the last tick of a slot, and the whole commands. -/

namespace Sys2Proof.Proofs

open Sys2Proof.Machine

/-! ## The accepts -/

theorem acceptWord_wbit {w : CmdWord} (h : opField w = 0x2) (o : Owt) :
    acceptWord w o = acceptWbit (bitOperand (dField w)) o := by
  simp [acceptWord, h]

theorem acceptWord_rbit {w : CmdWord} (h : opField w = 0x3) (o : Owt) : acceptWord w o = acceptRbit o := by
  simp [acceptWord, h]

/-- Settles O9: WBIT's case of the decoder and of the encoder; its meaning is `acceptWbit`, field by field. -/
theorem writeBitAccepted : Obligations.WriteBitAccepted := by
  refine ⟨fun w h => ?_, rfl, rfl, fun s b _ => rfl⟩
  rw [decode_cmd, decodeCmd_wbit h, bitOperand_dField]
  rfl

/-- Settles O10: RBIT's case of the decoder and of the encoder; its meaning is `acceptRbit`, field by field. -/
theorem readBitAccepted : Obligations.ReadBitAccepted := by
  refine ⟨fun w h => ?_, rfl, fun s _ => rfl⟩
  rw [decode_cmd, decodeCmd_rbit h]
  rfl

/-! ## The last tick of a slot -/

/-- A write slot reaches its last tick with nothing sampled (41_bit_slots.md R140). -/
theorem lastTick_wslot {s : State} (hp : s.owt.prim = .wslot) : lastTick s = setK (lWslot s.cfg - 1) s.owt := by
  simp [lastTick, sampledBy, primSample, primLen, hp]

/-- A read slot at its last tick, `sr` having taken in the slave's bit at the sample tick (41_bit_slots.md R145). -/
theorem lastTick_rslot {s : State} (hc : CfgWf s.cfg) (hp : s.owt.prim = .rslot) :
    lastTick s = setK (lRslot s.cfg - 1)
      { s.owt with sr := shiftIn (BitVec.ofBool (!pullAt s (s.cfg.tRdl + s.cfg.tRds))) s.owt.sr } := by
  have hsample : primSample s.cfg s.owt.prim = some (s.cfg.tRdl + s.cfg.tRds) := by rw [hp, primSample]
  have hlen : primLen s.cfg s.owt.prim = lRslot s.cfg := by rw [hp, primLen]
  rw [lastTick_of_primSample hc hsample, latch_rslot _ hp, levelBit_released, hlen]

/-! ## The end of a command of one slot -/

theorem endPrim_wbit {o : Owt} (hc : o.cmd = .wbit) (hp : o.prim = .wslot) :
    endPrim o = .goto (wbitEnd (shiftSlot o)) := by
  simp [endPrim, hc, hp]

theorem endPrim_rbit {o : Owt} (hc : o.cmd = .rbit) (hp : o.prim = .rslot) : endPrim o = .goto (rbitEnd o) := by
  simp [endPrim, hc, hp]

/-- The one bit of WBIT, sent, leaves nothing in the register (41_bit_slots.md R142). -/
theorem shiftOut_zext8 (b : BitVec 1) : shiftOut (zext8 b) = 0x00 := by
  revert b
  decide

/-- The bit just shifted in is the top one (41_bit_slots.md R145, R147). -/
theorem topBit_shiftIn (b : BitVec 1) (sr : Byte) : topBit (shiftIn b sr) = b :=
  BitVec.extractLsb'_append_eq_left

/-! ## The whole commands -/

/-- Settles O43: the accept and its one write slot by `runTicks_accept_primitive`, then the end of WBIT, whose shift
empties `sr`, whichever bit it sends. -/
theorem writeBitRun : Obligations.WriteBitRun := by
  intro s w hc hi hop hw hr
  have hlegal : legalOp (opField w) = true := by rw [hop]; rfl
  obtain ⟨b, haccept⟩ : ∃ b, acceptWord w s.owt = acceptWbit b s.owt := ⟨_, acceptWord_wbit hop s.owt⟩
  have hlast : lastTick (setOwt (acceptWbit b s.owt) (passTicks 1 s)) =
      setK (lWslot s.cfg - 1) (acceptWbit b s.owt) := lastTick_wslot rfl
  have hlen : primLen s.cfg (acceptWbit b s.owt).prim = lWslot s.cfg := rfl
  have hsent : 0x00 = shiftOut (zext8 b) := (shiftOut_zext8 b).symm
  rw [runTicks_accept_primitive hc hi hlegal haccept hw hlen hr, hlast, endPrim_wbit rfl rfl, hsent]
  rfl

/-- Settles O44: the accept and its one read slot by `runTicks_accept_primitive`, then the end of RBIT, whose result
is the bit the slot's sample shifted in. -/
theorem readBitRun : Obligations.ReadBitRun := by
  intro s w hc hi hop hw hr v hv
  have hlegal : legalOp (opField w) = true := by rw [hop]; rfl
  have hbit : BitVec.ofBool (!pullAt (passTicks 1 s) (s.cfg.tRdl + s.cfg.tRds)) = v := by
    simp [hv, pullAt, Nat.add_assoc]
  have hlast : lastTick (setOwt (acceptRbit s.owt) (passTicks 1 s)) =
      setK (lRslot s.cfg - 1) { acceptRbit s.owt with sr := shiftIn v s.owt.sr } := by
    rw [← hbit]
    exact lastTick_rslot hc rfl
  have hlen : primLen s.cfg (acceptRbit s.owt).prim = lRslot s.cfg := rfl
  have hresult : v.setWidth 8 = zext8 (topBit (shiftIn v s.owt.sr)) := by rw [topBit_shiftIn, zext8]
  rw [runTicks_accept_primitive hc hi hlegal (acceptWord_rbit hop s.owt) hw hlen hr, hlast, endPrim_rbit rfl rfl,
    hresult]
  rfl

end Sys2Proof.Proofs
end

section
/-! WBYTE and RBYTE (42_byte_serialization.md): their accepts, a byte slot by slot, the whole commands, and the
loopback. -/

namespace Sys2Proof.Proofs

open Sys2Proof.Machine

/-! ## The accepts -/

theorem acceptWord_wbyte {w : CmdWord} (h : opField w = 0x4) (o : Owt) :
    acceptWord w o = acceptWbyte (dField w) o := by
  simp [acceptWord, h]

theorem acceptWord_rbyte {w : CmdWord} (h : opField w = 0x5) (o : Owt) : acceptWord w o = acceptRbyte o := by
  simp [acceptWord, h]

/-- A WBYTE word as a sum (42_byte_serialization.md R160). -/
theorem cmdWord_wbyte_eq_add (v : Byte) : cmdWord 0x4 v = 0x400 + v.setWidth 12 := by
  revert v
  decide

/-- Settles O11: WBYTE's case of the decoder, up to the pseudo-instructions' names, and of the encoder; its meaning is
`acceptWbyte`, field by field. -/
theorem writeByteAccepted : Obligations.WriteByteAccepted := by
  refine ⟨fun v i h => ?_, fun v => congrArg FetchWord.cmd (cmdWord_wbyte_eq_add v), fun s v _ => rfl⟩
  cases h
  change expand (pseudoName (decodeCmd (cmdWord 0x4 v))) = .wbyte v
  rw [decodeCmd_wbyte (opField_cmdWord 0x4 v), dField_cmdWord, expand_pseudoName_wbyte]

/-- Settles O12: RBYTE's case of the decoder and of the encoder; its meaning is `acceptRbyte`, field by field. -/
theorem readByteAccepted : Obligations.ReadByteAccepted := by
  refine ⟨fun w h => ?_, rfl, fun s _ => rfl⟩
  rw [decode_cmd, decodeCmd_rbyte h]
  rfl

/-! ## A byte, from its accept to the end of its eighth slot (42_byte_serialization.md R161, R164) -/

/-- Slot `i` of the byte whose word is taken in the present tick of `s`, at its first tick: the accept leaves `o`, and
`sr` is `f i`. -/
def byteSlot (s : State) (o : Owt) (f : Nat → Byte) (i : Nat) : State :=
  setOwt { o with sr := f i, bitidx := BitVec.ofNat 3 i } (passTicks (1 + i * primLen s.cfg o.prim) s)

/-- In the present tick a word is taken that moves a byte: the accept leaves `o`, and `f` is `sr` slot by slot. -/
structure TakesByte (s : State) (w : CmdWord) (o : Owt) (f : Nat → Byte) : Prop where
  cfgWf : CfgWf s.cfg
  idle : s.owt.run = .idle
  presents : Presents s w
  legal : legalOp (opField w) = true
  accept : acceptWord w s.owt = o
  moves : movesByte o.cmd o.stage = true
  first : f 0 = o.sr
  next : ∀ i, i < 7 → f (i + 1) = slotSr (byteSlot s o f i)

section
variable {s : State} {w : CmdWord} {o : Owt} {f : Nat → Byte}

theorem TakesByte.accepted (h : TakesByte s w o f) : Accepted s.owt o := h.accept ▸ acceptWord_legal s.owt h.legal

theorem TakesByte.inCommand (h : TakesByte s w o f) : InCommand s.cfg o := h.accepted.inCommand h.cfgWf

/-- The accept and the first `i` slots of a byte. -/
theorem TakesByte.runTicks_slot (h : TakesByte s w o f) {i : Nat} (h8 : i < 8)
    (hr : NoResetFor s (i * primLen s.cfg o.prim)) :
    runTicks (1 + i * primLen s.cfg o.prim) s = .next (byteSlot s o f i) := by
  obtain ⟨hrst, hvalid, hword⟩ := h.presents
  have haccept := step_word_accept h.cfgWf hrst h.idle hvalid
  rw [hword, h.accept] at haccept
  have hslots := runTicks_slots (s := setOwt o (passTicks 1 s)) h.cfgWf h.inCommand.run h.inCommand.prim h.moves
    h.accepted.start.1 h.accepted.start.2 h.first (by simpa [byteSlot, passTicks_setOwt, passTicks_add] using h.next)
    h8 fun j hj => by simpa using hr j hj
  simp only [passTicks_setOwt, setOwt_setOwt, passTicks_add] at hslots
  rw [Nat.add_comm, runTicks_succ haccept]
  exact hslots

/-- A whole byte ends as the last tick of its eighth slot does. -/
theorem TakesByte.runTicks_whole (h : TakesByte s w o f) (hr : NoResetFor s (8 * primLen s.cfg o.prim)) :
    runTicks (1 + 8 * primLen s.cfg o.prim) s =
      finish (passTicks (1 + 8 * primLen s.cfg o.prim) s) (endPrim (lastTick (byteSlot s o f 7))) := by
  have hseven := h.runTicks_slot (i := 7) (by omega) fun j hj => hr j (by omega)
  have hlast := runTicks_primitive_end (s := byteSlot s o f 7) h.cfgWf h.inCommand.run h.inCommand.prim_ne_none
    h.accepted.start.1 fun j hj => by
      have hlt : j < primLen s.cfg o.prim := hj
      simpa [byteSlot, Nat.add_assoc] using hr (7 * primLen s.cfg o.prim + j) (by omega)
  have hlen : 1 + 8 * primLen s.cfg o.prim = 1 + 7 * primLen s.cfg o.prim + primLen s.cfg o.prim := by omega
  rw [hlen, runTicks_add hseven, ← passTicks_add, ← finish_setOwt, ← passTicks_setOwt]
  exact hlast

end

/-! ## The whole of WBYTE -/

theorem slotSr_wslot {s : State} (hp : s.owt.prim = .wslot) : slotSr s = shiftOut s.owt.sr := if_pos hp

theorem endPrim_wbyte_last {o : Owt} (hc : o.cmd = .wbyte) (hp : o.prim = .wslot) (h7 : o.bitidx = 7) :
    endPrim o = .goto (complete (shiftSlot o)) := by
  simp [endPrim, hc, hp, wbyteSlotEnd, byteStep_done (o := shiftSlot o) h7]

/-- `sr` in write slot `i`: the bits of `v` from `i` up are left to send (42_byte_serialization.md R161). -/
def bitsLeft (v : Byte) (i : Nat) : Byte := v >>> i

theorem bitsLeft_zero (v : Byte) : bitsLeft v 0 = v := BitVec.ushiftRight_zero v

theorem bitsLeft_succ (v : Byte) (i : Nat) : bitsLeft v (i + 1) = shiftOut (bitsLeft v i) := by
  rw [shiftOut_eq_ushiftRight, bitsLeft, bitsLeft, BitVec.shiftRight_add]

/-- After eight slots nothing is left (42_byte_serialization.md R162). -/
theorem bitsLeft_eight (v : Byte) : bitsLeft v 8 = 0x00 := BitVec.ushiftRight_eq_zero (Nat.le_refl 8)

/-- The bit that write slot `i` sends is bit `i`. -/
theorem bitsLeft_getLsbD_zero (v : Byte) (i : Nat) : (bitsLeft v i).getLsbD 0 = v.getLsbD i :=
  BitVec.getLsbD_ushiftRight v i 0

theorem takesByte_wbyte {s : State} {w : CmdWord} (hc : CfgWf s.cfg) (hi : s.owt.run = .idle) (hop : opField w = 0x4)
    (hw : Presents s w) : TakesByte s w (acceptWbyte (dField w) s.owt) (bitsLeft (dField w)) where
  cfgWf := hc
  idle := hi
  presents := hw
  legal := by rw [hop]; rfl
  accept := acceptWord_wbyte hop s.owt
  moves := rfl
  first := bitsLeft_zero _
  next i _ := by
    rw [bitsLeft_succ, slotSr_wslot rfl]
    rfl

/-- Settles O45: the accept and seven slots by `TakesByte.runTicks_whole`, then the end of the eighth, whose shift
empties `sr`. -/
theorem writeByteRun : Obligations.WriteByteRun := by
  intro s w hc hi hop hw hr
  have hlast : lastTick (byteSlot s (acceptWbyte (dField w) s.owt) (bitsLeft (dField w)) 7) =
      setK (lWslot s.cfg - 1) { acceptWbyte (dField w) s.owt with sr := bitsLeft (dField w) 7, bitidx := 7 } :=
    lastTick_wslot rfl
  have hsent : 0x00 = shiftOut (bitsLeft (dField w) 7) := by rw [← bitsLeft_succ, bitsLeft_eight]
  have hwhole := (takesByte_wbyte hc hi hop hw).runTicks_whole hr
  rw [hlast, endPrim_wbyte_last rfl rfl rfl] at hwhole
  rw [hsent]
  exact hwhole

/-! ## The whole of RBYTE -/

theorem slotSr_rslot {s : State} (hp : s.owt.prim = .rslot) :
    slotSr s = shiftIn (BitVec.ofBool (!pullAt s (s.cfg.tRdl + s.cfg.tRds))) s.owt.sr := by
  rw [slotSr, if_neg (by simp [hp]), sampleLevel, levelBit_released]

theorem endPrim_rbyte_last {o : Owt} (hc : o.cmd = .rbyte) (hp : o.prim = .rslot) (h7 : o.bitidx = 7) :
    endPrim o = .goto (complete { o with rdata := o.sr }) := by
  simp [endPrim, hc, hp, rbyteSlotEnd, byteStep_done h7]

/-- `r` after the first `n` of the bits `b` are shifted in at the top (41_bit_slots.md R145). -/
def shiftInBits (b : Nat → Bool) (r : Byte) : Nat → Byte
  | 0 => r
  | n + 1 => shiftIn (BitVec.ofBool (b n)) (shiftInBits b r n)

/-- Bit `i`, shifted in and moved down since, stands at place `j` after `n` shifts. -/
theorem shiftInBits_getLsbD (b : Nat → Bool) (r : Byte) {n i j : Nat} (hj : j < 8) (h : n + j = i + 8) :
    (shiftInBits b r n).getLsbD j = b i := by
  induction n generalizing j with
  | zero => omega
  | succ n ih =>
    rw [shiftInBits]
    obtain rfl | hlow : j = 7 ∨ j < 7 := by omega
    · obtain rfl : n = i := by omega
      rw [shiftIn_getLsbD_top]
      simp
    · rw [shiftIn_getLsbD_low _ _ hlow]
      exact ih (by omega) (by omega)

/-- The bit that read slot `i` of an RBYTE reads, whose word is taken in the present tick (42_byte_serialization.md
R164). -/
def slotBit (s : State) (i : Nat) : Bool := !pullAt s (1 + s.cfg.tRdl + s.cfg.tRds + i * lRslot s.cfg)

/-- What a read slot of RBYTE shifts in is its `slotBit`. -/
theorem pullAt_byteSlot_rbyte (s : State) (f : Nat → Byte) (i : Nat) :
    (!pullAt (byteSlot s (acceptRbyte s.owt) f i) (s.cfg.tRdl + s.cfg.tRds)) = slotBit s i := by
  have hlen : primLen s.cfg (acceptRbyte s.owt).prim = lRslot s.cfg := rfl
  rw [slotBit, byteSlot, hlen, pullAt, inputAt_setOwt, inputAt_passTicks, pullAt]
  congr 3
  omega

theorem takesByte_rbyte {s : State} {w : CmdWord} (hc : CfgWf s.cfg) (hi : s.owt.run = .idle) (hop : opField w = 0x5)
    (hw : Presents s w) : TakesByte s w (acceptRbyte s.owt) (shiftInBits (slotBit s) s.owt.sr) where
  cfgWf := hc
  idle := hi
  presents := hw
  legal := by rw [hop]; rfl
  accept := acceptWord_rbyte hop s.owt
  moves := rfl
  first := rfl
  next i _ := by
    rw [slotSr_rslot rfl, shiftInBits, ← pullAt_byteSlot_rbyte s (shiftInBits (slotBit s) s.owt.sr) i]
    rfl

/-- Settles O46: the accept and seven slots by `TakesByte.runTicks_whole`, then the end of the eighth, whose sample
shifts in the last of the eight bits. -/
theorem readByteRun : Obligations.ReadByteRun := by
  intro s w hc hi hop hw hr
  refine ⟨shiftInBits (slotBit s) s.owt.sr 8, fun i h8 => shiftInBits_getLsbD _ _ h8 (Nat.add_comm 8 i), ?_⟩
  have hlast : lastTick (byteSlot s (acceptRbyte s.owt) (shiftInBits (slotBit s) s.owt.sr) 7) =
      setK (lRslot s.cfg - 1)
        { acceptRbyte s.owt with sr := shiftInBits (slotBit s) s.owt.sr 8, bitidx := 7 } := by
    rw [shiftInBits, ← pullAt_byteSlot_rbyte s (shiftInBits (slotBit s) s.owt.sr) 7]
    exact lastTick_rslot hc rfl
  have hwhole := (takesByte_rbyte hc hi hop hw).runTicks_whole hr
  rw [hlast, endPrim_rbyte_last rfl rfl rfl] at hwhole
  exact hwhole

/-! ## The loopback (42_byte_serialization.md R167) -/

/-- In a write slot from T_W1L to T_SLOT - 1, the slave not pulling, the line is low where a 0 is sent. -/
theorem runTicks_wslot_level {s : State} (hc : CfgWf s.cfg) (hb : s.owt.run = .busy) (hp : s.owt.prim = .wslot)
    (hk : s.owt.k = 0) {m : Nat} (hm : s.cfg.tW1l ≤ m ∧ m < s.cfg.tSlot)
    (hr : ∀ j, j < m → (inputAt s j).rst = false) :
    ∃ u, runTicks m s = .next u ∧ ((inputNow u).devLow = false → decide (owIn u = .L) = !s.owt.sr.getLsbD 0) := by
  have hlen : m < primLen s.cfg s.owt.prim := by
    rw [hp]
    exact Nat.lt_add_right _ hm.2
  have hunsampled : sampledBy s m s.owt = s.owt := by simp [sampledBy, primSample, hp]
  have hdrive : owOe s.cfg (setK m s.owt) = !s.owt.sr.getLsbD 0 := by
    rw [owOe, setK_run, hb, setK_k, setK_prim, hp, setK_sr, primLowlen_wslot]
    cases s.owt.sr.getLsbD 0 with
    | false => simp [hm.2]
    | true => simp [hm.1]
  refine ⟨_, runTicks_primitive hc hb (by simp [hp]) hk hlen hr, fun hd => ?_⟩
  rw [owIn, hd, hunsampled, setOwt_cfg, passTicks_cfg, setOwt_owt, hdrive]
  cases s.owt.sr.getLsbD 0 <;> rfl

/-- The line in write slot `i` of a WBYTE is low where bit `i` of its byte is 0. -/
theorem writeByte_slot_level {s : State} {x : Byte} (hc : CfgWf s.cfg) (hi : s.owt.run = .idle)
    (hx : Presents s (cmdWord 0x4 x)) (hr : NoResetFor s (8 * lWslot s.cfg)) {i m : Nat} (h8 : i < 8)
    (hm : s.cfg.tW1l ≤ m ∧ m < s.cfg.tSlot) :
    ∃ u, runTicks (1 + i * lWslot s.cfg + m) s = .next u ∧
      ((inputNow u).devLow = false → decide (owIn u = .L) = !x.getLsbD i) := by
  have hbefore : i * lWslot s.cfg ≤ 7 * lWslot s.cfg := Nat.mul_le_mul_right _ (Nat.le_of_lt_succ h8)
  have hslot : m < lWslot s.cfg := Nat.lt_add_right _ hm.2
  have htakes := takesByte_wbyte hc hi (opField_cmdWord 0x4 x) hx
  rw [dField_cmdWord] at htakes
  have hreached := htakes.runTicks_slot h8 fun j hj => hr j (by
    have hlt : j < i * lWslot s.cfg := hj
    omega)
  obtain ⟨u, hu, hlevel⟩ := runTicks_wslot_level (s := byteSlot s (acceptWbyte x s.owt) (bitsLeft x) i) hc rfl rfl rfl
    hm fun j hj => by
      rw [inputAt_of_runTicks hreached, Nat.add_assoc]
      refine hr _ ?_
      change i * lWslot s.cfg + j < _
      omega
  exact ⟨u, (runTicks_add hreached).trans hu, fun hd => (hlevel hd).trans (congrArg _ (bitsLeft_getLsbD_zero x i))⟩

/-- Settles O50: bit `i` of `x` is the level in write slot `i` (`writeByte_slot_level`), OWT stays Idle until the word of
RBYTE, and the bits that `readByteRun` reads are those levels. -/
theorem loopbackReadsBackTheByte : Obligations.LoopbackReadsBackTheByte := by
  intro s t x w m g hc hi hx hrx hq ht hop hw hrt hm hloop
  have hr8 : NoResetFor s (8 * lWslot s.cfg) := fun j hj => hrx j (by omega)
  obtain ⟨v, hv, hidle⟩ : ∃ v, runTicks (1 + 8 * lWslot s.cfg) s = .next v ∧ v.owt.run = .idle :=
    ⟨_, writeByteRun s _ hc hi (opField_cmdWord 0x4 x) hx hr8, rfl⟩
  have hcv : v.cfg = s.cfg := cfg_of_runTicks hv
  have hgap : runTicks g v = .next (passTicks g v) := runTicks_idle (hcv ▸ hc) hidle fun j hj => by
    rw [inputAt_of_runTicks hv]
    exact ⟨by simpa [Nat.add_assoc] using hrx (8 * lWslot s.cfg + j) (by omega), hq j hj⟩
  rw [runTicks_add hv, hgap] at ht
  cases ht
  obtain ⟨y, hbits, hread⟩ := readByteRun (passTicks g v) w (hcv ▸ hc) hidle hop hw (hcv ▸ hrt)
  rw [passTicks_cfg, hcv] at hbits hread
  have hyx : y = x := BitVec.eq_of_getLsbD_eq fun i h8 => by
    obtain ⟨u, hu, hlevel⟩ := writeByte_slot_level hc hi hx hr8 h8 (hm i h8)
    obtain ⟨hd, hpull⟩ := hloop i h8 u hu
    have hat : 1 + s.cfg.tRdl + s.cfg.tRds + i * lRslot s.cfg = 1 + i * lRslot s.cfg + s.cfg.tRdl + s.cfg.tRds := by
      omega
    rw [hbits i h8, hat, hpull, hlevel hd, Bool.not_not]
  exact ⟨_, hread, hyx, hyx, rfl⟩

end Sys2Proof.Proofs
end

section
/-! RTEMP (43_thermal_sequencer.md): its accept, its wire bytes, the end of each of its primitives, and the reading. -/

namespace Sys2Proof.Proofs

open Sys2Proof.Machine

/-! ## The accept -/

theorem acceptWord_rtemp {w : CmdWord} (h : opField w = 0x6) (o : Owt) : acceptWord w o = acceptRtemp o := by
  simp [acceptWord, h]

/-- Settles O13: RTEMP's case of the decoder and of the encoder; its meaning is `acceptRtemp`, field by field. -/
theorem temperatureAccepted : Obligations.TemperatureAccepted := by
  refine ⟨fun w h => ?_, rfl, fun s _ => rfl⟩
  rw [decode_cmd, decodeCmd_rtemp h]
  rfl

/-! ## The wire bytes -/

/-- Settles O5: `step_busy`, the byte's decoding named. -/
theorem stepRunsSequencerByte : Obligations.StepRunsSequencerByte := by
  intro s o b i hc hr hb hsend hdec
  simp only [step_busy hc hr hb, hsend, finish, hdec]

section
variable {s : State}

theorem execWireSkipRom_rst1 (h : s.owt.stage = .rst1) :
    execWireSkipRom s = .next (setOwt (startWbyte .skip1 skipRomByte s.owt) s) := by
  simp [execWireSkipRom, h]

theorem execWireSkipRom_rst2 (h : s.owt.stage = .rst2) :
    execWireSkipRom s = .next (setOwt (startWbyte .skip2 skipRomByte s.owt) s) := by
  simp [execWireSkipRom, h]

theorem execWireConvertT_skip1 (h : s.owt.stage = .skip1) :
    execWireConvertT s = .next (setOwt (startWbyte .conv convertTByte s.owt) s) := by
  simp [execWireConvertT, h]

theorem execWireReadScratchpad_skip2 (h : s.owt.stage = .skip2) :
    execWireReadScratchpad s = .next (setOwt (startWbyte .rdsp readScratchpadByte s.owt) s) := by
  simp [execWireReadScratchpad, h]

end

/-- Settles O16: each wire byte at each stage that sends it, where its meaning is `start_wbyte`. -/
theorem wireBytesStartTheirStage : Obligations.WireBytesStartTheirStage := fun _ _ _ =>
  ⟨execWireSkipRom_rst1, execWireSkipRom_rst2, execWireConvertT_skip1, execWireReadScratchpad_skip2⟩

/-! ## The end of a primitive (43_thermal_sequencer.md R191) -/

/-- Where `rtemp_prim_end` leads, each wire byte with its stage started. -/
def rtempNext (o : Owt) : Owt :=
  match o.stage with
  | .none => o
  | .rst1 => if o.presence then startWbyte .skip1 skipRomByte o else npAbort o
  | .skip1 => if o.bitidx = 7 then startWbyte .conv convertTByte o else nextSlot o
  | .conv => if o.bitidx = 7 then enterStage .wait .wait o else nextSlot o
  | .wait => { o with stage := .rst2, prim := .reset, k := 0 }
  | .rst2 => if o.presence then startWbyte .skip2 skipRomByte o else npAbort o
  | .skip2 => if o.bitidx = 7 then startWbyte .rdsp readScratchpadByte o else nextSlot o
  | .rdsp => if o.bitidx = 7 then enterStage .lsb .rslot o else nextSlot o
  | .lsb => if o.bitidx = 7 then lsbDone o else nextSlot o
  | .msb => if o.bitidx = 7 then msbDone o else nextSlot o

/-- The end of a slot: the next slot, or where the whole byte leads. -/
theorem finish_byteStep {t : State} {o o' : Owt} {d : Transfer} (hd : finish t d = .next (setOwt o' t)) :
    finish t (byteStep d o) = .next (setOwt (if o.bitidx = 7 then o' else nextSlot o) t) := by
  by_cases h7 : o.bitidx = 7
  · rw [byteStep_done h7, if_pos h7, hd]
  · rw [byteStep_next h7, if_neg h7, finish_goto]

/-- The end of a reset: the abort, or where an answer leads. -/
theorem finish_ifPresent {t : State} {o o' : Owt} {d : Transfer} (hd : finish t d = .next (setOwt o' t)) :
    finish t (if o.presence then d else .goto (npAbort o)) =
      .next (setOwt (if o.presence then o' else npAbort o) t) := by
  cases o.presence
  · rfl
  · exact hd

/-- `rtemp_prim_end` never stops at a stage of RTEMP. -/
theorem finish_rtempPrimEnd (t : State) {o : Owt} (hs : o.stage ≠ .none) :
    finish t (rtempPrimEnd o) = .next (setOwt (rtempNext o) t) := by
  unfold rtempPrimEnd rtempNext
  cases h : o.stage with
  | none => exact absurd h hs
  | rst1 => exact finish_ifPresent (finish_skipRom h)
  | rst2 => exact finish_ifPresent (finish_skipRom2 h)
  | wait => rfl
  | skip1 => exact finish_byteStep (finish_convertT h)
  | skip2 => exact finish_byteStep (finish_readScratchpad h)
  | conv | rdsp | lsb | msb => exact finish_byteStep (finish_goto _ _)

/-- The shift at the end of a primitive: a write slot's, else none (41_bit_slots.md R140). -/
def shifted (o : Owt) : Owt := if o.prim = .wslot then shiftSlot o else o

@[simp] theorem shifted_stage (o : Owt) : (shifted o).stage = o.stage := by
  unfold shifted; split <;> rfl

@[simp] theorem shifted_bitidx (o : Owt) : (shifted o).bitidx = o.bitidx := by
  unfold shifted; split <;> rfl

theorem endPrim_rtemp {o : Owt} (hc : o.cmd = .rtemp) : endPrim o = rtempPrimEnd (shifted o) := by
  unfold endPrim shifted
  split <;> simp [hc]

/-- The last tick of a primitive of RTEMP: its sample, its shift, then `rtemp_prim_end`. -/
theorem step_rtemp_primEnd {s : State} (hi : Inv s) (hr : (inputNow s).rst = false) (he : AtPrimEnd s)
    (hc : s.owt.cmd = .rtemp) :
    step s = .next (setOwt (rtempNext (shifted (sampled s.cfg (owIn s) s.owt))) (passTicks 1 s)) := by
  obtain ⟨hb, hk⟩ := he
  have hin := inCommand_of_inv hi hb
  rw [step_busy hi.cfgWf hr hb, busyTick_end hin.prim_ne_none hk, endPrim_rtemp (by simpa using hc),
    finish_rtempPrimEnd _ (by simpa using hin.stage.2 hc)]

section
variable {o : Owt}

theorem rtempNext_rst1 (hs : o.stage = .rst1) (hq : o.presence = true) :
    rtempNext o = startWbyte .skip1 skipRomByte o := by
  simp [rtempNext, hs, hq]

theorem rtempNext_rst2 (hs : o.stage = .rst2) (hq : o.presence = true) :
    rtempNext o = startWbyte .skip2 skipRomByte o := by
  simp [rtempNext, hs, hq]

theorem rtempNext_abort (hs : o.stage = .rst1 ∨ o.stage = .rst2) (hq : o.presence = false) :
    rtempNext o = npAbort o := by
  rcases hs with hs | hs <;> simp [rtempNext, hs, hq]

/-- A slot of a byte that another follows (42_byte_serialization.md R161). -/
theorem rtempNext_nextSlot (hm : movesByte .rtemp o.stage = true) (h7 : o.bitidx ≠ 7) :
    rtempNext o = nextSlot o := by
  unfold rtempNext
  cases hs : o.stage with
  | none | rst1 | wait | rst2 => simp [hs, movesByte] at hm
  | skip1 | conv | skip2 | rdsp | lsb | msb => exact if_neg h7

theorem rtempNext_skip1 (hs : o.stage = .skip1) (h7 : o.bitidx = 7) :
    rtempNext o = startWbyte .conv convertTByte o := by
  simp [rtempNext, hs, h7]

theorem rtempNext_conv (hs : o.stage = .conv) (h7 : o.bitidx = 7) : rtempNext o = enterStage .wait .wait o := by
  simp [rtempNext, hs, h7]

theorem rtempNext_wait (hs : o.stage = .wait) : rtempNext o = { o with stage := .rst2, prim := .reset, k := 0 } := by
  simp [rtempNext, hs]

theorem rtempNext_skip2 (hs : o.stage = .skip2) (h7 : o.bitidx = 7) :
    rtempNext o = startWbyte .rdsp readScratchpadByte o := by
  simp [rtempNext, hs, h7]

theorem rtempNext_rdsp (hs : o.stage = .rdsp) (h7 : o.bitidx = 7) : rtempNext o = enterStage .lsb .rslot o := by
  simp [rtempNext, hs, h7]

theorem rtempNext_lsb (hs : o.stage = .lsb) (h7 : o.bitidx = 7) : rtempNext o = lsbDone o := by
  simp [rtempNext, hs, h7]

theorem rtempNext_msb (hs : o.stage = .msb) (h7 : o.bitidx = 7) : rtempNext o = msbDone o := by
  simp [rtempNext, hs, h7]

end

/-- Settles O31: `step_rtemp_primEnd`, and the arm of `rtempNext` for each stage. -/
theorem temperatureStageTransitions : Obligations.TemperatureStageTransitions := by
  intro s o hi hr he hc ho
  have hended : shifted (sampled s.cfg (owIn s) s.owt) = o := by
    rw [ho, shifted, sampled_prim]
    by_cases hw : s.owt.prim = .wslot
    · have hns : sampled s.cfg (owIn s) s.owt = s.owt := by simp [sampled, hw, primSample]
      rw [if_pos hw, if_pos hw, hns]
      rfl
    · rw [if_neg hw, if_neg hw, sampled]
  have hstage : s.owt.stage = o.stage := by rw [← hended]; simp
  have hbit : s.owt.bitidx = o.bitidx := by rw [← hended]; simp
  have hstep {o' : Owt} (h : rtempNext o = o') : step s = .next (setOwt o' (passTicks 1 s)) := by
    rw [step_rtemp_primEnd hi hr he hc, hended, h]
  rw [hstage, hbit]
  exact ⟨fun hs hq => hstep (rtempNext_rst1 hs hq), fun hs hq => hstep (rtempNext_rst2 hs hq),
    fun hs hq => hstep (rtempNext_abort hs hq), fun hm h7 => hstep (rtempNext_nextSlot hm h7),
    fun hs h7 => hstep (rtempNext_skip1 hs h7), fun hs h7 => hstep (rtempNext_conv hs h7),
    fun hs => hstep (rtempNext_wait hs), fun hs h7 => hstep (rtempNext_skip2 hs h7),
    fun hs h7 => hstep (rtempNext_rdsp hs h7), fun hs h7 => hstep (rtempNext_lsb hs h7),
    fun hs h7 => hstep (rtempNext_msb hs h7)⟩

/-! ## The reading -/

/-- The reading as an unsigned number (20_memory.md R66). -/
theorem composeReading_toNat (msb lsb : Byte) : (composeReading msb lsb).toNat = msb.toNat * 256 + lsb.toNat := by
  rw [composeReading, BitVec.toNat_append, ← Nat.shiftLeft_add_eq_or_of_lt lsb.isLt, Nat.shiftLeft_eq]

/-- The reading as a signed number: the sign is the top bit of the high byte (43_thermal_sequencer.md R195). -/
theorem readingSixteenths_composeReading (msb lsb : Byte) : readingSixteenths (composeReading msb lsb) =
    if msb.toNat < 128 then (msb.toNat * 256 + lsb.toNat : Int) else (msb.toNat * 256 + lsb.toNat : Int) - 65536 := by
  have hlsb := lsb.isLt
  rw [readingSixteenths, BitVec.toInt_eq_toNat_cond, composeReading_toNat]
  split <;> split <;> omega

/-- A 16-bit reading is in range (43_thermal_sequencer.md R195). -/
theorem readingSixteenths_bounds (raw : BitVec 16) :
    -32768 ≤ readingSixteenths raw ∧ readingSixteenths raw ≤ 32767 :=
  ⟨BitVec.le_toInt raw, Int.le_of_lt_add_one BitVec.toInt_lt⟩

/-- Settles O51: the value from the two bytes, the range of 16 bits divided by 16, and the sixteenths themselves as the
integer. -/
theorem readingIsSignedSixteenths : Obligations.ReadingIsSignedSixteenths := by
  intro msb lsb
  obtain ⟨hlow, hhigh⟩ := readingSixteenths_bounds (composeReading msb lsb)
  have hlowQ : (-32768 : ℚ) ≤ readingSixteenths (composeReading msb lsb) := by exact_mod_cast hlow
  have hhighQ : (readingSixteenths (composeReading msb lsb) : ℚ) ≤ 32767 := by exact_mod_cast hhigh
  refine ⟨composeReading_toNat msb lsb, readingSixteenths_composeReading msb lsb, rfl, ?_, ?_,
    readingSixteenths (composeReading msb lsb), ?_, ?_⟩
  · rw [readingCelsius]
    linarith
  · rw [readingCelsius]
    linarith
  · rw [abs_lt]
    constructor <;> omega
  · rw [readingCelsius]
    ring

end Sys2Proof.Proofs
end

section
/-! The whole of RTEMP (43_thermal_sequencer.md R200, R202): the state that each stage leads to, and the three outcomes
of the command. -/

namespace Sys2Proof.Proofs

open Sys2Proof.Machine

/-! ## The byte that eight read slots read (42_byte_serialization.md R164) -/

/-- The bit that the read slot `i` of a byte reads, the first slot beginning `m` ticks from now. -/
def bitReadAt (s : State) (m i : Nat) : Bool := !pullAt s (m + s.cfg.tRdl + s.cfg.tRds + i * lRslot s.cfg)

/-- The byte that eight read slots read, the first of them beginning `m` ticks from now. -/
def byteReadAt (s : State) (m : Nat) : Byte := shiftInBits (bitReadAt s m) 0x00 8

theorem byteReadAt_getLsbD (s : State) (m : Nat) {i : Nat} (h8 : i < 8) :
    (byteReadAt s m).getLsbD i = !pullAt s (m + s.cfg.tRdl + s.cfg.tRds + i * lRslot s.cfg) :=
  shiftInBits_getLsbD _ _ h8 (Nat.add_comm 8 i)

theorem bitReadAt_of_runTicks {n : Nat} {s t : State} (h : runTicks n s = .next t) (m i : Nat) :
    bitReadAt t m i = bitReadAt s (n + m) i := by
  simp only [bitReadAt, pullAt_of_runTicks h, cfg_of_runTicks h, Nat.add_assoc]

theorem byteReadAt_of_runTicks {n : Nat} {s t : State} (h : runTicks n s = .next t) (m : Nat) :
    byteReadAt t m = byteReadAt s (n + m) := by
  simp only [byteReadAt, funext fun i => bitReadAt_of_runTicks h m i]

/-- Eight bits shifted in leave nothing of what the register held. -/
theorem shiftInBits_eight (b : Nat → Bool) (r r' : Byte) : shiftInBits b r 8 = shiftInBits b r' 8 :=
  BitVec.eq_of_getLsbD_eq fun i h8 => by
    rw [shiftInBits_getLsbD b r h8 (Nat.add_comm 8 i), shiftInBits_getLsbD b r' h8 (Nat.add_comm 8 i)]

/-! ## A primitive and a byte, to the state they lead to -/

/-- No stage asks for the tick at which its last primitive ends. -/
theorem rtempNext_setK (n : Nat) {o : Owt} (hs : o.stage ≠ .none) : rtempNext (setK n o) = rtempNext o := by
  unfold rtempNext
  rw [setK_stage]
  cases h : o.stage with
  | none => exact absurd h hs
  | rst1 | rst2 | wait | skip1 | conv | skip2 | rdsp | lsb | msb => rfl

/-- A whole primitive of RTEMP: its sample, its shift, then `rtemp_prim_end`. -/
theorem PrimStart.runTicks_rtemp {s : State} (h : PrimStart s) (hc : s.owt.cmd = .rtemp)
    (hr : ResetFree s (primLen s.cfg s.owt.prim)) :
    runTicks (primLen s.cfg s.owt.prim) s =
      .next (setOwt (rtempNext (shifted (lastTick s))) (passTicks (primLen s.cfg s.owt.prim) s)) := by
  have hs : (shifted (lastTick s)).stage ≠ .none := by simpa using h.inCommand.stage.2 hc
  have hcmd : (lastTick s).cmd = .rtemp := by simpa using hc
  rw [runTicks_primitive_end h.inv.cfgWf h.busy h.inCommand.prim_ne_none h.k hr, ← lastTick, endPrim_rtemp hcmd,
    finish_rtempPrimEnd _ hs]

theorem movesByte_of_slot {st : Stage} (h : primFor .rtemp st = .wslot ∨ primFor .rtemp st = .rslot) :
    movesByte .rtemp st = true := by
  revert h
  cases st <;> decide

/-- Slot `i` of the byte whose stage begins in `s`, at its first tick, `sr` being `f i`. -/
def stageSlot (s : State) (f : Nat → Byte) (i : Nat) : State :=
  setOwt { s.owt with sr := f i, bitidx := BitVec.ofNat 3 i } (passTicks (i * primLen s.cfg s.owt.prim) s)

/-- A slot at the end of its last tick, sample and shift taken. -/
theorem shifted_lastTick_slot {s : State} (hc : CfgWf s.cfg) (hp : s.owt.prim = .wslot ∨ s.owt.prim = .rslot) :
    shifted (lastTick s) = setK (primLen s.cfg s.owt.prim - 1) { s.owt with sr := slotSr s } := by
  rcases hp with hp | hp
  · rw [shifted, if_pos (by simpa using hp), lastTick_wslot hp, slotSr_wslot hp, hp]
    rfl
  · rw [shifted, if_neg (by simp [hp]), lastTick_rslot hc hp, slotSr_rslot hp, hp]
    rfl

/-- What a stage of one byte leads to, `f` being `sr` slot by slot and at its end. -/
theorem StageStart.runTicks_byte {s : State} {st : Stage} {f : Nat → Byte} (h : StageStart s st)
    (hp : s.owt.prim = .wslot ∨ s.owt.prim = .rslot) (hf0 : f 0 = s.owt.sr)
    (hf : ∀ i, i < 8 → f (i + 1) = slotSr (stageSlot s f i)) (hr : ResetFree s (8 * primLen s.cfg s.owt.prim)) :
    runTicks (8 * primLen s.cfg s.owt.prim) s = .next (setOwt (rtempNext { s.owt with sr := f 8, bitidx := 7 })
      (passTicks (8 * primLen s.cfg s.owt.prim) s)) := by
  have hm : movesByte s.owt.cmd s.owt.stage = true := by
    rw [h.cmd, h.stage]
    exact movesByte_of_slot (h.prim ▸ hp)
  have hseven : runTicks (7 * primLen s.cfg s.owt.prim) s = .next (stageSlot s f 7) :=
    runTicks_slots h.inv.cfgWf h.busy h.inCommand.prim hm h.k h.bitidx hf0 (fun i hi => hf i (by omega)) (by omega)
      fun j hj => hr j (by omega)
  have heighth : PrimStart (stageSlot s f 7) := ⟨inv_of_runTicks hseven h.inv, h.busy, h.k⟩
  have hrun := heighth.runTicks_rtemp h.cmd fun j hj => by
    have hlt : j < primLen s.cfg s.owt.prim := hj
    rw [inputAt_of_runTicks hseven]
    exact hr _ (by omega)
  have hs : s.owt.stage ≠ .none := h.inCommand.stage.2 h.cmd
  rw [shifted_lastTick_slot (s := stageSlot s f 7) h.inv.cfgWf hp, ← hf 7 (by omega),
    rtempNext_setK _ (by exact hs)] at hrun
  have hlen : 8 * primLen s.cfg s.owt.prim = 7 * primLen s.cfg s.owt.prim + primLen s.cfg s.owt.prim := by omega
  rw [hlen, runTicks_add hseven, ← passTicks_add]
  exact hrun

/-! ## A stage, to the state it leads to -/

/-- The ticks of a stage with primitive `p` (43_thermal_sequencer.md R200). -/
def stageTicks (c : Cfg) : Prim → Nat
  | .none => 0
  | .reset => lReset c
  | .wslot => 8 * lWslot c
  | .rslot => 8 * lRslot c
  | .wait => lWait c

theorem length_frames_stageLine {c : Cfg} (hc : CfgWf c) (st : Stage) :
    (frames c (stageLine st)).length = stageTicks c (primFor .rtemp st) := by
  cases st with
  | none => rfl
  | rst1 | rst2 => simp [stageLine, frame, primFor, stageTicks, lReset]
  | wait => simp [stageLine, frame, primFor, stageTicks, lWait]
  | skip1 | conv | skip2 | rdsp => exact length_frames_writeByteActions hc _
  | lsb | msb => exact length_frames_readByteActions hc

/-- What the primitives of a stage make of the state `o` it begins in, by its last tick and but for `k`: `q` is the
slave's answer to a reset, `v` the byte that read slots read. -/
def stageLast (q : Bool) (v : Byte) (o : Owt) : Owt :=
  match o.prim with
  | .none | .wait => o
  | .reset => { o with presence := q }
  | .wslot => { o with sr := 0x00, bitidx := 7 }
  | .rslot => { o with sr := v, bitidx := 7 }

section
variable {q : Bool} {v : Byte} {o : Owt}

theorem stageLast_reset (hp : o.prim = .reset) : stageLast q v o = { o with presence := q } := by
  simp [stageLast, hp]

theorem stageLast_wslot (hp : o.prim = .wslot) : stageLast q v o = { o with sr := 0x00, bitidx := 7 } := by
  simp [stageLast, hp]

theorem stageLast_rslot (hp : o.prim = .rslot) : stageLast q v o = { o with sr := v, bitidx := 7 } := by
  simp [stageLast, hp]

theorem stageLast_wait (hp : o.prim = .wait) : stageLast q v o = o := by
  simp [stageLast, hp]

end

section
variable {s : State} {st : Stage}

/-- A stage of one write byte: `sr` is emptied. -/
theorem StageStart.runTicks_write (h : StageStart s st) (hp : s.owt.prim = .wslot)
    (hr : ResetFree s (8 * lWslot s.cfg)) :
    runTicks (8 * lWslot s.cfg) s =
      .next (setOwt (rtempNext { s.owt with sr := 0x00, bitidx := 7 }) (passTicks (8 * lWslot s.cfg) s)) := by
  have hlen : primLen s.cfg s.owt.prim = lWslot s.cfg := by rw [hp, primLen]
  have hslot (i : Nat) : bitsLeft s.owt.sr (i + 1) = slotSr (stageSlot s (bitsLeft s.owt.sr) i) := by
    rw [bitsLeft_succ, slotSr_wslot (s := stageSlot s (bitsLeft s.owt.sr) i) hp]
    rfl
  have hrun := h.runTicks_byte (.inl hp) (bitsLeft_zero _) (fun i _ => hslot i) (hlen ▸ hr)
  rw [hlen, bitsLeft_eight] at hrun
  exact hrun

/-- A stage of one read byte: `sr` is the byte read. -/
theorem StageStart.runTicks_read (h : StageStart s st) (hp : s.owt.prim = .rslot)
    (hr : ResetFree s (8 * lRslot s.cfg)) :
    runTicks (8 * lRslot s.cfg) s =
      .next (setOwt (rtempNext { s.owt with sr := byteReadAt s 0, bitidx := 7 }) (passTicks (8 * lRslot s.cfg) s)) := by
  have hlen : primLen s.cfg s.owt.prim = lRslot s.cfg := by rw [hp, primLen]
  have hslot (i : Nat) : shiftInBits (bitReadAt s 0) s.owt.sr (i + 1) =
      slotSr (stageSlot s (shiftInBits (bitReadAt s 0) s.owt.sr) i) := by
    rw [slotSr_rslot (s := stageSlot s (shiftInBits (bitReadAt s 0) s.owt.sr) i) hp, shiftInBits]
    simp only [bitReadAt, stageSlot, pullAt, inputAt_setOwt, inputAt_passTicks, setOwt_cfg, passTicks_cfg, setOwt_owt,
      hlen, Nat.zero_add]
    rw [Nat.add_comm (i * lRslot s.cfg)]
  have hrun := h.runTicks_byte (.inr hp) rfl (fun i _ => hslot i) (hlen ▸ hr)
  rw [hlen, shiftInBits_eight _ _ 0] at hrun
  exact hrun

/-- What a stage leads to, from the state it begins in. -/
theorem StageStart.runTicks_stage (h : StageStart s st) {q : Bool} {v : Byte}
    (hq : s.owt.prim = .reset → pullAt s (s.cfg.tRstl + s.cfg.tPds) = q)
    (hv : s.owt.prim = .rslot → byteReadAt s 0 = v) (hr : ResetFree s (stageTicks s.cfg s.owt.prim)) :
    runTicks (stageTicks s.cfg s.owt.prim) s =
      .next (setOwt (rtempNext (stageLast q v s.owt)) (passTicks (stageTicks s.cfg s.owt.prim) s)) := by
  have hs : s.owt.stage ≠ .none := h.inCommand.stage.2 h.cmd
  cases hp : s.owt.prim with
  | none => exact absurd hp h.inCommand.prim_ne_none
  | wslot =>
    rw [hp] at hr
    rw [stageLast_wslot hp]
    exact h.runTicks_write hp hr
  | rslot =>
    rw [hp] at hr
    rw [stageLast_rslot hp, ← hv hp]
    exact h.runTicks_read hp hr
  | reset =>
    have hrun := h.runTicks_rtemp h.cmd
    rw [hp] at hr hrun
    rw [shifted, if_neg (by simp [hp]), lastTick_reset h.inv.cfgWf hp, hq hp, rtempNext_setK _ (by exact hs)] at hrun
    rw [stageLast_reset hp]
    exact hrun hr
  | wait =>
    have hrun := h.runTicks_rtemp h.cmd
    have hlast : lastTick s = setK (lWait s.cfg - 1) s.owt := by simp [lastTick, sampledBy, primSample, primLen, hp]
    rw [hp] at hr hrun
    rw [shifted, if_neg (by simp [hp]), hlast, rtempNext_setK _ (by exact hs)] at hrun
    rw [stageLast_wait hp]
    exact hrun hr

end

/-! ## The stages in turn -/

/-- OWT in the first tick of a stage of RTEMP, in the state `o`. -/
structure StageAt (s : State) (st : Stage) (o : Owt) : Prop extends StageStart s st where
  owt : s.owt = o

section
variable {s : State} {st : Stage} {o : Owt}

/-- The end of a stage, wherever it leads, in its exact state. -/
theorem StageAt.leads_owt (h : StageAt s st o) {P : State → Prop} {q : Bool} {v : Byte}
    (hP : Leads s (stageLine st) P) (hq : primFor .rtemp st = .reset → pullAt s (s.cfg.tRstl + s.cfg.tPds) = q)
    (hv : primFor .rtemp st = .rslot → byteReadAt s 0 = v) :
    Leads s (stageLine st) fun t => P t ∧ t.owt = rtempNext (stageLast q v o) := by
  intro hr
  obtain ⟨t, hd, ht⟩ := hP hr
  rw [length_frames_stageLine h.inv.cfgWf, ← h.prim] at hr
  have hrun := h.runTicks_stage (fun hp => hq (h.prim ▸ hp)) (fun hp => hv (h.prim ▸ hp)) hr
  rw [h.prim, ← length_frames_stageLine h.inv.cfgWf, hd.run, h.owt] at hrun
  cases hrun
  exact ⟨_, hd, ht, rfl⟩

/-- A stage that another follows. -/
theorem StageAt.next (h : StageAt s st o) {v : Byte} (hne : st ≠ .msb)
    (hq : primFor .rtemp st = .reset → pullAt s (s.cfg.tRstl + s.cfg.tPds) = true)
    (hv : primFor .rtemp st = .rslot → byteReadAt s 0 = v) :
    Leads s (stageLine st) fun t => StageAt t (nextStage st) (rtempNext (stageLast true v o)) :=
  (h.leads_owt (h.toStageStart.next hne hq) hq hv).mono fun _ _ ⟨hst, ho⟩ => ⟨hst, ho⟩

/-- A stage that another follows and that samples nothing. -/
theorem StageAt.next_unsampled (h : StageAt s st o) (hne : st ≠ .msb := by decide)
    (hp : primFor .rtemp st ≠ .reset ∧ primFor .rtemp st ≠ .rslot := by decide) :
    Leads s (stageLine st) fun t => StageAt t (nextStage st) (rtempNext (stageLast true 0x00 o)) :=
  h.next hne (fun hr => absurd hr hp.1) fun hr => absurd hr hp.2

/-- A reset that nobody answers (43_thermal_sequencer.md R182, R186). -/
theorem StageAt.aborts (h : StageAt s st o) (hp : primFor .rtemp st = .reset)
    (hq : pullAt s (s.cfg.tRstl + s.cfg.tPds) = false) :
    Leads s (stageLine st) fun t => t.owt = rtempNext (stageLast false 0x00 o) :=
  (h.leads_owt (h.completes (.inr ⟨hp, hq⟩)) (fun _ => hq) fun hr => by simp [hp] at hr).mono fun _ _ ⟨_, ho⟩ => ho

/-- The last byte of the reading (43_thermal_sequencer.md R190). -/
theorem StageAt.reads_last (h : StageAt s .msb o) {v : Byte} (hv : byteReadAt s 0 = v) :
    Leads s (stageLine .msb) fun t => t.owt = rtempNext (stageLast false v o) :=
  (h.leads_owt (h.completes (.inl rfl)) nofun fun _ => hv).mono fun _ _ ⟨_, ho⟩ => ho

end

theorem Drives.byteReadAt_eq {s t : State} {as : List LineAction} {n : Nat} (h : Drives s as t)
    (hn : (frames s.cfg as).length = n) : byteReadAt t 0 = byteReadAt s n := by
  rw [byteReadAt_of_runTicks h.run, hn, Nat.add_zero]

/-! ## The outcomes (43_thermal_sequencer.md R202) -/

/-- `o` after an RTEMP that a reset without an answer ended. -/
def rtempUnanswered (o : Owt) : Owt :=
  { o with
    run := .idle, cmd := .none, stage := .none, prim := .none, k := 0, bitidx := 0, presence := false, errNp := true,
    errIll := false, tempValid := false, done := true }

/-- `o` after an RTEMP that read `lsb` and `msb`. -/
def rtempRead (lsb msb : Byte) (o : Owt) : Owt :=
  { o with
    run := .idle, cmd := .none, stage := .none, prim := .none, k := 0, bitidx := 0, sr := msb, lsbTmp := lsb,
    tempRaw := composeReading msb lsb, presence := true, errNp := false, errIll := false, tempValid := true,
    done := true }

/-- OWT at the second reset of an RTEMP taken in `o`. -/
def atSecondReset (o : Owt) : Owt :=
  { acceptRtemp o with stage := .rst2, sr := 0x00, presence := true }

/-- What RTEMP drives up to its second reset, the first one answered. -/
def lineToSecondReset : List LineAction := [.reset] ++ writeByteActions 0xCC ++ writeByteActions 0x44 ++ [.wait]

/-- What RTEMP drives from its second reset on, this one answered too. -/
def lineToReading : List LineAction :=
  [.reset] ++ writeByteActions 0xCC ++ writeByteActions 0xBE ++ readByteActions ++ readByteActions

theorem actions_rtemp_second_unanswered : actions .rtemp true false = lineToSecondReset ++ [.reset] := by
  simp [actions, lineToSecondReset]

theorem actions_rtemp_answered : actions .rtemp true true = lineToSecondReset ++ lineToReading := by
  simp [actions, lineToSecondReset, lineToReading]

theorem length_frames_lineToSecondReset {c : Cfg} (hc : CfgWf c) :
    (frames c lineToSecondReset).length = lReset c + 16 * lWslot c + c.tConv := by
  simp [lineToSecondReset, length_frames_writeByteActions hc, frame, lReset]
  omega

section
variable {s : State} {o : Owt}

/-- The first reset, answered, up to the second: the four stages, one after another, evaluate to `atSecondReset`. -/
theorem StageAt.to_secondReset (h : StageAt s .rst1 (acceptRtemp o))
    (hq : pullAt s (s.cfg.tRstl + s.cfg.tPds) = true) :
    Leads s lineToSecondReset fun t => StageAt t .rst2 (atSecondReset o) :=
  (((h.next (v := 0x00) (by decide) (fun _ => hq) nofun)
    |>.append fun _ _ hSkip1 => hSkip1.next_unsampled)
    |>.append fun _ _ hConv => hConv.next_unsampled)
    |>.append fun _ _ hWait => hWait.next_unsampled

/-- The second reset, answered, up to the reading: each byte is read from where the stages before it end. -/
theorem StageAt.to_reading (h : StageAt s .rst2 (atSecondReset o)) (hq : pullAt s (s.cfg.tRstl + s.cfg.tPds) = true) :
    Leads s lineToReading fun t => t.owt = rtempRead (byteReadAt s (lReset s.cfg + 16 * lWslot s.cfg))
      (byteReadAt s (lReset s.cfg + 16 * lWslot s.cfg + 8 * lRslot s.cfg)) o := by
  have hlen := length_frames_stageLine h.inv.cfgWf
  exact ((((h.next (v := 0x00) (by decide) (fun _ => hq) nofun)
    |>.append fun _ _ hSkip2 => hSkip2.next_unsampled)
    |>.append fun _ _ hRdsp => hRdsp.next_unsampled)
    |>.append fun _ hd hLsb => hLsb.next (v := byteReadAt s (lReset s.cfg + 16 * lWslot s.cfg)) (by decide) nofun
      fun _ => hd.byteReadAt_eq (by simp [hlen, nextStage, primFor, stageTicks]; omega))
    |>.append fun _ hd hMsb => hMsb.reads_last
      (v := byteReadAt s (lReset s.cfg + 16 * lWslot s.cfg + 8 * lRslot s.cfg))
      (hd.byteReadAt_eq (by simp [hlen, nextStage, primFor, stageTicks]; omega))

/-- The second reset, without an answer (43_thermal_sequencer.md R186). -/
theorem StageAt.second_aborts (h : StageAt s .rst2 (atSecondReset o))
    (hq : pullAt s (s.cfg.tRstl + s.cfg.tPds) = false) :
    Leads s [.reset] fun t => t.owt = rtempUnanswered { o with sr := 0x00 } :=
  h.aborts rfl hq

/-- The first reset, without an answer (43_thermal_sequencer.md R182). -/
theorem StageAt.first_aborts (h : StageAt s .rst1 (acceptRtemp o))
    (hq : pullAt s (s.cfg.tRstl + s.cfg.tPds) = false) : Leads s [.reset] fun t => t.owt = rtempUnanswered o :=
  h.aborts rfl hq

end

/-! ## From the accept to the end -/

theorem next_of_runTicks {n : Nat} {s t : State} (h : runTicks n s = .next t) : t = setOwt t.owt (passTicks n s) :=
  runTicks_induction (P := fun m u => u = setOwt u.owt (passTicks m s)) h rfl fun m u v hu hs => by
    rw [step_next_frame hs, hu, passTicks_setOwt, setOwt_setOwt, passTicks_add, setOwt_owt]

/-- The accept of RTEMP starts its first stage. -/
theorem stageAt_accept {s : State} (hc : CfgWf s.cfg) :
    StageAt (setOwt (acceptRtemp s.owt) (passTicks 1 s)) .rst1 (acceptRtemp s.owt) where
  inv := inv_iff.2 ⟨hc, .inr (Accepted.rtemp.inCommand hc)⟩
  busy := rfl
  k := rfl
  cmd := rfl
  stage := rfl
  bitidx := rfl
  byte := nofun
  owt := rfl

theorem step_accept_rtemp {s : State} {w : CmdWord} (hc : CfgWf s.cfg) (hi : s.owt.run = .idle)
    (hop : opField w = 0x6) (hw : Presents s w) :
    step s = .next (setOwt (acceptRtemp s.owt) (passTicks 1 s)) := by
  obtain ⟨hrst, hvalid, rfl⟩ := hw
  rw [step_word_accept hc hrst hi hvalid, acceptWord_rtemp hop]

section
variable {s u : State} (hc : CfgWf s.cfg) (hstep : step s = .next u)
include hc hstep

/-- An RTEMP, taken in the present tick, ends after its Busy ticks where its stages lead. -/
theorem runTicks_rtemp_whole {o : Owt} {p1 p2 : Bool} {n : Nat} (hn : n = busyTicks s.cfg .rtemp p1 p2)
    (hr : NoResetFor s n) (h : Leads u (actions .rtemp p1 p2) fun t => t.owt = o) :
    runTicks (1 + n) s = .next (setOwt o (passTicks (1 + n) s)) := by
  rw [← length_frames_actions hc, ← cfg_of_step hstep] at hn
  obtain ⟨t, hd, rfl⟩ := h fun j hj => by
    rw [inputAt_of_step hstep, Nat.add_comm]
    exact hr j (hn ▸ hj)
  have hrun : runTicks (1 + n) s = .next t := by rw [Nat.add_comm, runTicks_succ hstep, hn, hd.run]
  rw [← next_of_runTicks hrun, hrun]

/-- The tick at which the second reset begins. -/
theorem runTicks_secondReset {t : State} (hd : Drives u lineToSecondReset t) :
    runTicks (1 + lReset s.cfg + 16 * lWslot s.cfg + s.cfg.tConv) s = .next t := by
  have hrun := hd.run
  rw [cfg_of_step hstep, length_frames_lineToSecondReset hc] at hrun
  have hlen : 1 + lReset s.cfg + 16 * lWslot s.cfg + s.cfg.tConv =
      lReset s.cfg + 16 * lWslot s.cfg + s.cfg.tConv + 1 := by omega
  rw [hlen, runTicks_succ hstep, hrun]

end

/-- Settles O47: the accept, and the stages up to a reset without an answer or to the reading, each of whose bits is
that of its sample tick. -/
theorem temperatureRun : Obligations.TemperatureRun := by
  intro s w p1 p2 n hc hi hop hw hp1 hp2 hn hr
  have hstep := step_accept_rtemp hc hi hop hw
  have hstart := stageAt_accept hc
  have hfirst : pullAt (setOwt (acceptRtemp s.owt) (passTicks 1 s)) (s.cfg.tRstl + s.cfg.tPds) = p1 := by
    rw [pullAt_of_step hstep, hp1]
    congr 1
    omega
  have hsecond {t : State} (hd : Drives (setOwt (acceptRtemp s.owt) (passTicks 1 s)) lineToSecondReset t) :
      pullAt t (t.cfg.tRstl + t.cfg.tPds) = p2 := by
    have hrun := runTicks_secondReset hc hstep hd
    rw [cfg_of_runTicks hrun, pullAt_of_runTicks hrun, ← Nat.add_assoc, hp2]
  refine ⟨?noAnswer, ?oneAnswer, ?twoAnswers⟩
  case noAnswer =>
    rintro rfl
    exact runTicks_rtemp_whole hc hstep hn hr (hstart.first_aborts hfirst)
  case oneAnswer =>
    rintro rfl rfl
    refine runTicks_rtemp_whole (o := rtempUnanswered { s.owt with sr := 0x00 }) hc hstep hn hr ?_
    rw [actions_rtemp_second_unanswered]
    exact (hstart.to_secondReset hfirst).append fun t hd ht => ht.second_aborts (hsecond hd)
  case twoAnswers =>
    rintro rfl rfl
    refine ⟨byteReadAt s (1 + 2 * lReset s.cfg + 32 * lWslot s.cfg + s.cfg.tConv),
      byteReadAt s (1 + 2 * lReset s.cfg + 32 * lWslot s.cfg + s.cfg.tConv + 8 * lRslot s.cfg),
      fun i => byteReadAt_getLsbD s _, fun i => byteReadAt_getLsbD s _, ?_⟩
    refine runTicks_rtemp_whole (o := rtempRead _ _ s.owt) hc hstep hn hr ?_
    rw [actions_rtemp_answered]
    refine (hstart.to_secondReset hfirst).append fun t hd ht => (ht.to_reading (hsecond hd)).mono fun v _ hv => ?_
    have hrun := runTicks_secondReset hc hstep hd
    rw [hv, byteReadAt_of_runTicks hrun, byteReadAt_of_runTicks hrun, cfg_of_runTicks hrun]
    congr 2 <;> omega

end Sys2Proof.Proofs
end

section
/-! The laws of every step (44_common_laws.md section 2 and R276): what it leaves alone, that it never stops, the closed
list of its control transfers, and the end of every command. -/

namespace Sys2Proof.Proofs

open Sys2Proof.Machine

/-- Settles O7: the frame of a step. -/
theorem stepKeepsConfiguration : Obligations.StepKeepsConfiguration := by
  intro s t h
  rw [step_next_frame h]
  exact ⟨rfl, rfl, rfl⟩

/-- Settles O34: every arm of a tick answers a next state, the Busy one by `step_busy_moves`. -/
theorem stepNeverStops : Obligations.StepNeverStops := by
  intro s hi
  cases hr : (inputNow s).rst with
  | true => exact ⟨_, step_reset hi.cfgWf hr⟩
  | false =>
    cases hrun : s.owt.run with
    | idle =>
      cases hv : (inputNow s).cmdValid with
      | false => exact ⟨_, step_hold hi.cfgWf hr hrun hv⟩
      | true => exact ⟨_, step_word_accept hi.cfgWf hr hrun hv⟩
    | busy =>
      obtain ⟨-, -, hstep⟩ | ⟨-, _, -, hstep⟩ := step_busy_moves hi hr hrun
      · exact ⟨_, hstep⟩
      · exact ⟨_, hstep⟩

/-! ## The control transfers (44_common_laws.md R273) -/

/-- The command and the stage that a legal word enters (10_state.md R28). -/
theorem acceptWord_commandOf {w : CmdWord} (hl : legalOp (opField w) = true) (o : Owt) :
    ((acceptWord w o).cmd, (acceptWord w o).stage) = commandOf (opField w) := by
  unfold acceptWord
  rcases legalOp_cases _ hl with e | e | e | e | e | e <;> rw [e] <;> rfl

/-- In RTEMP the stages of a reset are ST_RST1 and ST_RST2 (43_thermal_sequencer.md R180). -/
theorem primFor_rtemp_reset_iff {st : Stage} : primFor .rtemp st = .reset ↔ st = .rst1 ∨ st = .rst2 := by
  cases st <;> decide

theorem bitidx_lt_seven {i : BitVec 3} (h : i ≠ 7) : i.toNat < 7 := by
  have hne : i.toNat ≠ 7 := fun e => h (BitVec.eq_of_toNat_eq e)
  omega

/-- The slot counter does not wrap before the eighth slot. -/
theorem bitidx_succ_toNat {i : BitVec 3} (h : i ≠ 7) : (i + 1).toNat = i.toNat + 1 := by
  have hlt := bitidx_lt_seven h
  rw [BitVec.toNat_add]
  exact Nat.mod_eq_of_lt (Nat.succ_lt_succ hlt)

section
variable {c : Cfg} {o o' : Owt}

/-- Next slot: the end of a slot inside a byte. -/
theorem endMove_nextSlot (h : EndMove o o') (hm : movesByte o.cmd o.stage = true) (hi : o.bitidx ≠ 7) :
    o'.run = o.run ∧ o'.k = 0 ∧ o'.bitidx.toNat = o.bitidx.toNat + 1 ∧ o'.cmd = o.cmd ∧ o'.stage = o.stage ∧
      o'.prim = o.prim := by
  rw [h.eq_nextSlot hm hi]
  split <;> exact ⟨rfl, rfl, bitidx_succ_toNat hi, rfl, rfl, rfl⟩

/-- Abort: the end of a reset of RTEMP that nobody answered. -/
theorem endMove_unanswered (h : EndMove o o') (hc : o.cmd = .rtemp) (hs : o.stage = .rst1 ∨ o.stage = .rst2)
    (hq : o.presence = false) : o' = npAbort o := by
  cases h
  case abort => rfl
  case rtempWriteNext hs' _ | rtempReadNext hs' _ => rcases hs with hs | hs <;> simp [hs] at hs'
  all_goals simp_all

/-- Next stage: the end of a stage of RTEMP that another follows. -/
theorem InCommand.startsStage (hin : InCommand c o) (hcfg : CfgWf c) (h : EndMove o o') (hc : o.cmd = .rtemp)
    (h7 : movesByte o.cmd o.stage = true → o.bitidx = 7) (hne : o.stage ≠ .msb)
    (hq : o.stage = .rst1 ∨ o.stage = .rst2 → o.presence = true) :
    o'.run = .busy ∧ o'.cmd = .rtemp ∧ o'.stage = nextStage o.stage ∧ o'.prim = primFor .rtemp o'.stage ∧
      o'.k = 0 ∧ o'.bitidx = 0 := by
  obtain ⟨hcmd, hstage, -, hbit⟩ :=
    endMove_nextStage h hc h7 hne fun hr => hq (primFor_rtemp_reset_iff.1 hr)
  have hin' : InCommand c o' := (hin.endMove hcfg h).resolve_left fun hrest => by simp [hrest.cmd] at hcmd
  refine ⟨hin'.run, hcmd, hstage, by rw [hin'.prim, hcmd], endMove_k h, hbit.elim id fun hrst2 => ?_⟩
  by_contra hne0
  simpa [hcmd, hrst2, movesByte] using hin'.bitidx hne0

end

/-- The ends of a primitive: of a slot inside a byte, of a stage of RTEMP that another follows, of a reset of RTEMP
that nobody answered, and of a command. -/
theorem primEnd_cases (o : Owt) :
    (movesByte o.cmd o.stage = true ∧ o.bitidx ≠ 7) ∨
    ((movesByte o.cmd o.stage = true → o.bitidx = 7) ∧ o.cmd = .rtemp ∧ o.stage ≠ .msb ∧
      (o.stage = .rst1 ∨ o.stage = .rst2 → o.presence = true)) ∨
    (o.cmd = .rtemp ∧ (o.stage = .rst1 ∨ o.stage = .rst2) ∧ o.presence = false) ∨
    ((movesByte o.cmd o.stage = true → o.bitidx = 7) ∧ (o.cmd = .rtemp → o.stage = .msb)) := by
  by_cases hslot : movesByte o.cmd o.stage = true ∧ o.bitidx ≠ 7
  · exact .inl hslot
  have h7 : movesByte o.cmd o.stage = true → o.bitidx = 7 := by simpa using hslot
  by_cases hlast : o.cmd = .rtemp → o.stage = .msb
  · exact .inr (.inr (.inr ⟨h7, hlast⟩))
  obtain ⟨hc, hne⟩ := Classical.not_imp.1 hlast
  by_cases hq : o.stage = .rst1 ∨ o.stage = .rst2 → o.presence = true
  · exact .inr (.inl ⟨h7, hc, hne, hq⟩)
  · exact .inr (.inr (.inl ⟨hc, by simpa using hq⟩))

/-- The commands, by what their last primitive ends. -/
theorem InCommand.command_of_last {c : Cfg} {o : Owt} (h : InCommand c o)
    (h7 : movesByte o.cmd o.stage = true → o.bitidx = 7) (hlast : o.cmd = .rtemp → o.stage = .msb) :
    o.cmd = .reset ∨ o.cmd = .wbit ∨ o.cmd = .rbit ∨
      (o.cmd = .wbyte ∨ o.cmd = .rbyte ∨ o.cmd = .rtemp ∧ o.stage = .msb) ∧ o.bitidx = 7 := by
  cases hc : o.cmd with
  | none => exact absurd hc h.cmd
  | reset | wbit | rbit => simp
  | wbyte | rbyte => simpa [hc, movesByte] using h7
  | rtemp => simpa [hc, hlast hc, movesByte] using h7

/-- Settles O35: the arms of `step_cases_of_inv`; the end of a primitive is that of a slot inside a byte, of a stage
of RTEMP, answered or not, or of a command. -/
theorem controlTransfersClosed : Obligations.ControlTransfersClosed := by
  intro s t hi h
  obtain ⟨hr, rfl⟩ | ⟨hr, hidle, hv, rfl⟩ | ⟨hr, hidle, hv, rfl⟩ | ⟨hr, hb, -, hk, rfl⟩ | ⟨hr, hb, he, o', hm, rfl⟩ :=
    step_cases_of_inv hi h
  · exact .inl ⟨hr, rfl⟩
  · exact .inr ⟨hr, .inr (.inr (.inl ⟨hidle, hv, rfl⟩))⟩
  · cases hl : legalOp (opField (inputNow s).cmdWord) with
    | false =>
      rw [acceptWord_illegal _ hl]
      exact .inr ⟨hr, .inr (.inl ⟨⟨hidle, hv⟩, rfl, hidle, rfl⟩)⟩
    | true =>
      have hacc := acceptWord_legal s.owt hl
      have hin := hacc.inCommand hi.cfgWf
      exact .inr ⟨hr, .inl ⟨⟨hidle, hv⟩, rfl, hin.run, acceptWord_commandOf hl _, hin.prim, hacc.start⟩⟩
  · exact .inr ⟨hr, .inr (.inr (.inr (.inl ⟨hb, hk, by simp [hb]⟩)))⟩
  · have hin := (inCommand_of_inv hi hb).sampled (owIn s)
    refine .inr ⟨hr, .inr (.inr (.inr (.inr ?_)))⟩
    rw [setOwt_owt]
    obtain ⟨hbyte, hne⟩ | ⟨h7, hc, hne, hq⟩ | ⟨hc, hs, hq⟩ | ⟨h7, hlast⟩ :=
      primEnd_cases (sampled s.cfg (owIn s) s.owt)
    · obtain ⟨hrun, hk, hbit, hctl⟩ := endMove_nextSlot hm hbyte hne
      simp only [sampled_run, sampled_cmd, sampled_stage, sampled_prim, sampled_bitidx] at hbyte hne hrun hbit hctl
      exact .inl ⟨he, hbyte, bitidx_lt_seven hne, hrun.trans hb, hk, hbit, hctl⟩
    · have hnext := hin.startsStage hi.cfgWf hm hc h7 hne hq
      rw [← endMove_presence hm] at hq
      simp only [sampled_cmd, sampled_stage, sampled_bitidx] at h7 hc hne hq hnext
      exact .inr (.inl ⟨he, hc, hne, hc ▸ h7, hq, hnext⟩)
    · cases endMove_unanswered hm hc hs hq
      simp only [sampled_cmd, sampled_stage] at hc hs
      exact .inr (.inr (.inl ⟨he, hc, hs, hq, rfl, rfl, rfl⟩))
    · have hcmd := hin.command_of_last h7 hlast
      simp only [sampled_cmd, sampled_stage, sampled_bitidx] at hcmd
      exact .inr (.inr (.inr ⟨he, hcmd, endMove_completes hm h7 fun hc => .inl (hlast hc)⟩))

/-! ## The end of every command (44_common_laws.md R274) -/

/-- The slots, or the one primitive, that the stage in progress still has, the present one included. -/
def slotsLeft (o : Owt) : Nat := if movesByte o.cmd o.stage then 8 - o.bitidx.toNat else 1

/-- The ticks of the stages of RTEMP after a stage, when the slave answers; 0 for the commands without stages. -/
def ticksAfterStage (c : Cfg) : Stage → Nat
  | .none | .msb => 0
  | .lsb => 8 * lRslot c
  | .rdsp => 16 * lRslot c
  | .skip2 => 8 * lWslot c + 16 * lRslot c
  | .rst2 => 16 * lWslot c + 16 * lRslot c
  | .wait => lReset c + 16 * lWslot c + 16 * lRslot c
  | .conv => lReset c + 16 * lWslot c + c.tConv + 16 * lRslot c
  | .skip1 => lReset c + 24 * lWslot c + c.tConv + 16 * lRslot c
  | .rst1 => lReset c + 32 * lWslot c + c.tConv + 16 * lRslot c

/-- The ticks up to the end of the command in progress, when the slave answers every reset still to come. -/
def ticksLeft (c : Cfg) (o : Owt) : Nat := slotsLeft o * primLen c o.prim - o.k + ticksAfterStage c o.stage

/-- What follows a stage is the next stage and what follows that. -/
theorem ticksAfterStage_eq (c : Cfg) {st : Stage} (h : st ≠ .none) (h' : st ≠ .msb) :
    ticksAfterStage c st = stageTicks c (primFor .rtemp (nextStage st)) + ticksAfterStage c (nextStage st) := by
  cases st with
  | none | msb => contradiction
  | lsb | skip2 => rfl
  | rst1 | skip1 | conv | wait | rst2 | rdsp =>
    simp only [ticksAfterStage, stageTicks, primFor, nextStage, lWait]
    omega

/-- No stage is longer than a successful RTEMP. -/
theorem stageTicks_le (c : Cfg) (p : Prim) : stageTicks c p ≤ busyTicks c .rtemp true true := by
  cases p <;> simp only [stageTicks, busyTicks, lWait, if_true] <;> omega

/-- Nor is a stage of RTEMP with all that follows it. -/
theorem stageTicks_add_after_le (c : Cfg) (st : Stage) :
    stageTicks c (primFor .rtemp st) + ticksAfterStage c st ≤ busyTicks c .rtemp true true := by
  cases st <;> simp only [stageTicks, primFor, ticksAfterStage, busyTicks, lWait, if_true] <;> omega

theorem slotsLeft_pos (o : Owt) : 0 < slotsLeft o := by
  unfold slotsLeft
  split <;> omega

/-- At the last slot of a stage, or in its one primitive. -/
theorem slotsLeft_of_last {o : Owt} (h7 : movesByte o.cmd o.stage = true → o.bitidx = 7) : slotsLeft o = 1 := by
  unfold slotsLeft
  split
  · next hm => simp [h7 hm]
  · rfl

section
variable {c : Cfg} {o : Owt}

/-- What is left of a stage is at most the stage. -/
theorem InCommand.slotsLeft_mul_le (h : InCommand c o) : slotsLeft o * primLen c o.prim ≤ stageTicks c o.prim := by
  unfold slotsLeft
  split
  · next hm =>
    have hbyte : stageTicks c o.prim = 8 * primLen c o.prim := by
      rcases slot_prim h.prim hm with hp | hp <;> rw [hp] <;> rfl
    exact hbyte ▸ Nat.mul_le_mul_right _ (Nat.sub_le _ _)
  · cases o.prim <;> simp only [primLen, stageTicks] <;> omega

theorem InCommand.ticksLeft_le (h : InCommand c o) :
    ticksLeft c o ≤ stageTicks c o.prim + ticksAfterStage c o.stage :=
  Nat.add_le_add_right ((Nat.sub_le _ _).trans h.slotsLeft_mul_le) _

/-- No command is longer than a successful RTEMP. -/
theorem InCommand.ticksLeft_le_rtemp (h : InCommand c o) : ticksLeft c o ≤ busyTicks c .rtemp true true := by
  by_cases hc : o.cmd = .rtemp
  · refine h.ticksLeft_le.trans ?_
    rw [h.prim, hc]
    exact stageTicks_add_after_le c o.stage
  · have hstage : o.stage = .none := by simpa [hc] using h.stage
    refine h.ticksLeft_le.trans ?_
    rw [hstage]
    exact stageTicks_le c o.prim

theorem InCommand.ticksLeft_pos (h : InCommand c o) : 0 < ticksLeft c o := by
  have hle : primLen c o.prim ≤ slotsLeft o * primLen c o.prim := Nat.le_mul_of_pos_left _ (slotsLeft_pos o)
  have hk := h.k
  unfold ticksLeft
  omega

variable {o' : Owt}

/-- A tick inside a primitive brings the end of the command nearer. -/
theorem ticksLeft_lt_of_count (hk : o.k < primLen c o.prim - 1) (hk' : o'.k = o.k + 1) (hcmd : o'.cmd = o.cmd)
    (hst : o'.stage = o.stage) (hprim : o'.prim = o.prim) (hbit : o'.bitidx = o.bitidx) :
    ticksLeft c o' < ticksLeft c o := by
  have hslots : slotsLeft o' = slotsLeft o := by rw [slotsLeft, slotsLeft, hcmd, hst, hbit]
  have hle : primLen c o.prim ≤ slotsLeft o * primLen c o.prim := Nat.le_mul_of_pos_left _ (slotsLeft_pos o)
  rw [ticksLeft, ticksLeft, hslots, hprim, hst, hk']
  omega

/-- So does the end of a slot inside a byte. -/
theorem InCommand.ticksLeft_lt_of_nextSlot (h : InCommand c o) (hk : o.k = primLen c o.prim - 1)
    (hm : movesByte o.cmd o.stage = true) (hlt : o.bitidx.toNat < 7) (hk' : o'.k = 0)
    (hbit : o'.bitidx.toNat = o.bitidx.toNat + 1) (hcmd : o'.cmd = o.cmd) (hst : o'.stage = o.stage)
    (hprim : o'.prim = o.prim) : ticksLeft c o' < ticksLeft c o := by
  have hslots : slotsLeft o = slotsLeft o' + 1 := by
    simp only [slotsLeft, hcmd, hst, hm, hbit, if_true]
    omega
  have hinside := h.k
  rw [ticksLeft, ticksLeft, hslots, hprim, hst, hk', hk, Nat.succ_mul]
  omega

/-- So does the end of a stage of RTEMP that another follows. -/
theorem InCommand.ticksLeft_lt_of_nextStage (h : InCommand c o) (h' : InCommand c o') (hk : o.k = primLen c o.prim - 1)
    (hcmd : o.cmd = .rtemp) (hne : o.stage ≠ .msb) (h7 : movesByte .rtemp o.stage = true → o.bitidx = 7)
    (hst : o'.stage = nextStage o.stage) (hprim : o'.prim = primFor .rtemp o'.stage) :
    ticksLeft c o' < ticksLeft c o := by
  have hinside := h.k
  calc ticksLeft c o'
      ≤ stageTicks c o'.prim + ticksAfterStage c o'.stage := h'.ticksLeft_le
    _ = ticksAfterStage c o.stage := by rw [hprim, hst, ← ticksAfterStage_eq c (h.stage.2 hcmd) hne]
    _ < ticksLeft c o := by
      rw [ticksLeft, slotsLeft_of_last (hcmd ▸ h7), hk]
      omega

end

/-- A Busy tick without reset completes the command or brings its end nearer. -/
theorem step_completes_or_nears {s t : State} (hi : Inv s) (hb : s.owt.run = .busy) (hr : (inputNow s).rst = false)
    (h : step s = .next t) :
    Completed t ∨ t.owt.run = .busy ∧ ticksLeft t.cfg t.owt < ticksLeft s.cfg s.owt := by
  have hin := inCommand_of_inv hi hb
  have hidle : s.owt.run ≠ .idle := by simp [hb]
  have hcfg := cfg_of_step h
  rw [hcfg]
  obtain ⟨hrst, -⟩ | ⟨-, ⟨⟨hw, -⟩, -⟩ | ⟨⟨hw, -⟩, -⟩ | ⟨hw, -⟩ | hcount | hslot | hstage | habort | hdone⟩ :=
    controlTransfersClosed s t hi h
  · simp [hr] at hrst
  · exact absurd hw hidle
  · exact absurd hw hidle
  · exact absurd hw hidle
  · obtain ⟨-, hk, hrun, hk', hcmd, hst, hprim, hbit⟩ := hcount
    exact .inr ⟨hrun, ticksLeft_lt_of_count hk hk' hcmd hst hprim hbit⟩
  · obtain ⟨⟨-, hk⟩, hm, hlt, hrun, hk', hbit, hcmd, hst, hprim⟩ := hslot
    exact .inr ⟨hrun, hin.ticksLeft_lt_of_nextSlot hk hm hlt hk' hbit hcmd hst hprim⟩
  · obtain ⟨⟨-, hk⟩, hcmd, hne, h7, -, hrun, -, hst, hprim, -⟩ := hstage
    have hin' : InCommand s.cfg t.owt := hcfg ▸ inCommand_of_inv (invariantKept s t hi h) hrun
    exact .inr ⟨hrun, hin.ticksLeft_lt_of_nextStage hin' hk hcmd hne h7 hst hprim⟩
  · obtain ⟨-, -, -, -, hrun, -, hend⟩ := habort
    exact .inl ⟨hrun, hend⟩
  · obtain ⟨-, -, hend⟩ := hdone
    exact .inl hend

/-- A command ends within the ticks left, whatever the slave answers. -/
theorem completes_within {n : Nat} {s : State} (hi : Inv s) (hb : s.owt.run = .busy)
    (hn : ticksLeft s.cfg s.owt ≤ n) (hr : ResetFree s n) : ∃ m t, m ≤ n ∧ runTicks m s = .next t ∧ Completed t := by
  induction n generalizing s with
  | zero => exact absurd hn (Nat.not_le.2 (inCommand_of_inv hi hb).ticksLeft_pos)
  | succ n ih =>
    obtain ⟨t, h⟩ := stepNeverStops s hi
    obtain hdone | ⟨hrun, hlt⟩ := step_completes_or_nears hi hb (hr 0 n.succ_pos) h
    · exact ⟨1, t, by omega, runTicks_succ h, hdone⟩
    · obtain ⟨m, u, hm, hrunTicks, hdone⟩ := ih (invariantKept s t hi h) hrun (by omega) fun j hj => by
        rw [inputAt_of_step h]
        exact hr _ (Nat.succ_lt_succ hj)
      exact ⟨m + 1, u, by omega, (runTicks_succ h).trans hrunTicks, hdone⟩

/-- Settles O49: `completes_within`, no command being longer than a successful RTEMP. -/
theorem everyCommandEnds : Obligations.EveryCommandEnds := fun _ hi hb hr =>
  completes_within hi hb (inCommand_of_inv hi hb).ticksLeft_le_rtemp hr

end Sys2Proof.Proofs
end

section
/-! The two errors (60_exceptions.md): what raises each, and the state that each leaves. -/

namespace Sys2Proof.Proofs

open Sys2Proof.Machine

/-! ## NotPresent (60_exceptions.md R211) -/

section
variable {s t : State}

/-- Apart from its sample a Busy tick keeps `presence`. -/
theorem presence_of_busy_step (hi : Inv s) (hr : (inputNow s).rst = false) (hb : s.owt.run = .busy)
    (h : step s = .next t) : t.owt.presence = (sampled s.cfg (owIn s) s.owt).presence := by
  obtain ⟨-, -, hstep⟩ | ⟨-, o', hm, hstep⟩ := step_busy_moves hi hr hb <;> rw [hstep] at h <;> cases h
  · rfl
  · exact endMove_presence hm

/-- The presence sample reads the slave's pull, on the last tick of P_RESET too (log 10). -/
theorem presence_of_sample_step (hi : Inv s) (hr : (inputNow s).rst = false) (hs : AtSample s)
    (hp : s.owt.prim = .reset) (h : step s = .next t) : t.owt.presence = (inputNow s).devLow := by
  rw [presence_of_busy_step hi hr hs.1 h, sampled_at_sample hi.cfgWf hs, latch_reset _ hp, presenceOf_released]

/-- The end of P_RESET, whichever command it belongs to, leaves `err_np` up exactly when nobody answered. -/
theorem endMove_errNp_of_reset {o o' : Owt} (h : EndMove o o') (hp : o.prim = .reset) (hnp : o.errNp = false) :
    o'.errNp = !o'.presence := by
  cases h
  case reset => rfl
  case abort hq => simp [hq]
  case toSkip1 hq | toSkip2 hq => simp [hnp, hq]
  all_goals simp_all

theorem errNp_of_reset_end (hi : Inv s) (hr : (inputNow s).rst = false) (he : AtPrimEnd s)
    (hp : s.owt.prim = .reset) (h : step s = .next t) : t.owt.errNp = !t.owt.presence := by
  obtain ⟨hnp, -⟩ := hi.form.busyNoError he.1
  obtain ⟨hne, -⟩ | ⟨-, o', hm, hstep⟩ := step_busy_moves hi hr he.1
  · exact absurd he hne
  · rw [hstep] at h
    cases h
    exact endMove_errNp_of_reset hm (by simpa using hp) (by simpa using hnp)

/-- P_RESET is the primitive of RESET, and of RTEMP in its two reset stages (10_state.md R28, 43_thermal_sequencer.md
R180). -/
theorem command_of_primFor_reset {cmd : Cmd} {st : Stage} (h : primFor cmd st = .reset) :
    cmd = .reset ∨ cmd = .rtemp ∧ (st = .rst1 ∨ st = .rst2) := by
  cases cmd with
  | reset => exact .inl rfl
  | rtemp => exact .inr ⟨rfl, primFor_rtemp_reset_iff.1 h⟩
  | none | wbit | rbit | wbyte | rbyte => cases h

end

/-- Settles O38: the rise of `err_np` is O37's, and at the end of P_RESET the flag is the negated `presence`. -/
theorem notPresentRaisedExactly : Obligations.NotPresentRaisedExactly := by
  intro s t hi hr hb h
  obtain ⟨hnp, -⟩ := hi.form.busyNoError hb
  obtain ⟨-, -, -, -, raised, -⟩ := flagWriters s t hi h
  refine ⟨⟨fun ht => ?_, fun ⟨he, hp, hq⟩ => ?_⟩, fun ht => ?_, fun hs hp => presence_of_sample_step hi hr hs hp h⟩
  · obtain ⟨he, hp, hq, -⟩ := raised hnp ht
    exact ⟨he, hp, hq⟩
  · rw [errNp_of_reset_end hi hr he hp h, hq, Bool.not_false]
  · obtain ⟨-, hp, -⟩ := raised hnp ht
    exact command_of_primFor_reset (hi.form.primOfStage ▸ hp)

/-! ## IllegalCommand (60_exceptions.md R212, R215) -/

/-- The illegal opcodes (30_encoding.md R94). -/
theorem legalOp_eq_false_iff : ∀ op : BitVec 4, legalOp op = false ↔ op = 0x0 ∨ 0x7 ≤ op.toNat := by
  decide

/-- Settles O39: the rise of `err_ill` is O37's, and an illegal word taken does raise it. -/
theorem illegalCommandRaisedExactly : Obligations.IllegalCommandRaisedExactly := by
  intro s t hi hr hill h
  obtain ⟨-, -, -, -, -, -, raised, -⟩ := flagWriters s t hi h
  rw [← legalOp_eq_false_iff]
  constructor
  · intro ht
    obtain ⟨⟨hidle, hv⟩, hl, -⟩ := raised hill ht
    exact ⟨hidle, hv, hl⟩
  · rintro ⟨hidle, hv, hl⟩
    rw [step_word_accept hi.cfgWf hr hidle hv, acceptWord_illegal _ hl] at h
    cases h
    rfl

/-- An Idle OWT does not drive the line (10_state.md R34). -/
theorem owOe_of_idle (c : Cfg) {o : Owt} (h : o.run = .idle) : owOe c o = false := by
  simp [owOe, h]

/-- The meaning of the three illegal rows. -/
theorem exec_illegal {i : Instr} (s : State) (h : i = .illegal0 ∨ i = .illegal7 ∨ ∃ op, i = .illegal8F op) :
    exec i s = .next (setOwt (illegalCommand s.owt) s) := by
  obtain rfl | rfl | ⟨op, rfl⟩ := h <;> rfl

/-- Settles O15: the three illegal cases of the decoder, and `exec_illegal`, which leaves `run` as it was. -/
theorem illegalCommandAction : Obligations.IllegalCommandAction := by
  have named {w : CmdWord} {i : Instr} (h : decodeCmd w = i) : decode (.cmd w) = .ok (pseudoName i) := h ▸ decode_cmd w
  refine ⟨fun w h => named (decodeCmd_illegal0 h), fun w h => named (decodeCmd_illegal7 h),
    fun w h => named (decodeCmd_illegal8F h), fun s i hidle hrow => ⟨exec_illegal s hrow, fun t ht => ?_⟩⟩
  rw [exec_illegal s hrow] at ht
  cases ht
  exact ⟨hidle, owOe_of_idle _ hidle⟩

/-! ## After an error (60_exceptions.md R218) -/

/-- No error flag is up inside a command, so a state with one up is at rest. -/
theorem atRest_of_error {s : State} (hi : Inv s) (he : s.owt.errNp = true ∨ s.owt.errIll = true) : AtRest s.owt := by
  obtain ⟨-, hrest | hin⟩ := inv_iff.1 hi
  · exact hrest
  · simp [hin.errNp, hin.errIll] at he

/-- A legal word presented to an Idle OWT is accepted, and clears both error flags (10_state.md R28). -/
theorem step_legal_word {s : State} (hc : CfgWf s.cfg) (hidle : s.owt.run = .idle) (hr : (inputNow s).rst = false)
    (hv : (inputNow s).cmdValid = true) (hl : legalOp (opField (inputNow s).cmdWord) = true) :
    ∃ u, step s = .next u ∧ u.owt.run = .busy ∧ u.owt.errNp = false ∧ u.owt.errIll = false := by
  have hacc := acceptWord_legal s.owt hl
  obtain ⟨-, hNp, hIll⟩ := accepted_clears hacc
  exact ⟨_, step_word_accept hc hr hidle hv, (hacc.inCommand hc).run, hNp, hIll⟩

/-- Settles O40: an error flag is up only at rest, and at rest the line is free and the port is open. -/
theorem errorsLeaveIdle : Obligations.ErrorsLeaveIdle := by
  intro s t hi h he
  have hit := invariantKept s t hi h
  obtain ⟨hrun, hcmd, hstage, hprim, hk, hbit, -⟩ := atRest_of_error hit he
  exact ⟨⟨hrun, hcmd, hstage, hprim, hk, hbit⟩, owOe_of_idle _ hrun, step_legal_word hit.cfgWf hrun⟩

end Sys2Proof.Proofs
end

section
/-! Reset and the line at rest (70_reset_and_hazards.md section 1): what `rst` leads to, and what an Idle OWT drives. -/

namespace Sys2Proof.Proofs

open Sys2Proof.Machine

/-- Settles O2: both ticks with `rst` are `step_reset`; the first tick without it finds OWT Idle, so it holds (O6) or
runs the presented word (O4). -/
theorem resetInputWins : Obligations.ResetInputWins := by
  intro s hc hr
  refine ⟨step_reset hc hr, ?_⟩
  rintro t rfl
  have hidle : (setOwt State.reset.owt (passTicks 1 s)).owt.run = .idle := rfl
  exact ⟨step_reset hc, fun hr' hv => idleHoldsWithoutCommand _ hc hr' hidle hv,
    fun hr' hv i hdec => stepRunsPresentedCommand _ i hc hr' hidle hv hdec⟩

/-- Settles O25: an Idle OWT does not drive, and an undriven line shows what the slave does. -/
theorem idleReleasesTheLine : Obligations.IdleReleasesTheLine := by
  intro s hidle
  have hoe : owOe s.cfg s.owt = false := owOe_of_idle _ hidle
  obtain ⟨-, -, hfloat, -⟩ := lineDriveRule s.cfg s.owt
  exact ⟨hoe, hfloat hoe, owIn_eq_H_of_released hoe⟩

/-- Settles O41: the step leads to `RESET_STATE` (`step_reset`), which is Idle and has every flag and result 0. -/
theorem resetCutsACommand : Obligations.ResetCutsACommand := by
  intro s hi _ hr
  exact ⟨_, step_reset hi.cfgWf hr, rfl, rfl, rfl, rfl, rfl, rfl, rfl, owOe_of_idle _ rfl⟩

end Sys2Proof.Proofs
end
